-- ==== Sys2Proof/Word.lean ====
section
/-! DEFINITION. The word types of the AES CBC/CTR engine: widths only, no arithmetic. -/

namespace Sys2Proof

/-- One byte; also an element of GF(2^8) (R430). -/
abbrev Byte := BitVec 8

/-- One word of the host port, of the command register and of the key schedule (R200, R300, R501). -/
abbrev Word := BitVec 32

/-- A 16-byte block, byte 0 most significant: the big-endian reading `be_int` of its byte string
(00_scope.md section 4, R600). `blockByte` reads its bytes. -/
abbrev Block := BitVec 128

/-- The 32-byte KEY register, byte 0 most significant (R122). -/
abbrev KeyReg := BitVec 256

/-- A byte address of the host port (R200). -/
abbrev Addr := BitVec 18

end Sys2Proof
end

