-- ==== Sys2Proof/Syntax.lean ====
section
/-! DEFINITION. The syntax: one constructor for each row of spec/opcode_table.json, and the three fields of a command word. -/

namespace Sys2Proof

/-- The commands of R304: the 12 command words and the 28 BADMODE words. A command has no operand
(R309): its operands are registers, and each MODE value is a row of its own. -/
inductive Instr where
  /-- `NOP` (R408) -/
  | nop
  /-- `KEYEXP` (R510) -/
  | keyexp
  /-- `ENCB` (R611) -/
  | encb
  /-- `DECB` (R612) -/
  | decb
  /-- `GFMUL` (R443) -/
  | gfmul
  /-- `GFINV` (R444) -/
  | gfinv
  /-- `SBOX` (R445) -/
  | sbox
  /-- `ISBOX` (R446) -/
  | isbox
  /-- `MSGENC.CBC` (R708) -/
  | msgencCbc
  /-- `MSGDEC.CBC` (R709) -/
  | msgdecCbc
  /-- `MSGENC.CTR` (R710) -/
  | msgencCtr
  /-- `MSGDEC.CTR` (R711) -/
  | msgdecCtr
  /-- `MSGENC.2`, a BADMODE word (R712) -/
  | msgenc2
  /-- `MSGENC.3`, a BADMODE word (R712) -/
  | msgenc3
  /-- `MSGENC.4`, a BADMODE word (R712) -/
  | msgenc4
  /-- `MSGENC.5`, a BADMODE word (R712) -/
  | msgenc5
  /-- `MSGENC.6`, a BADMODE word (R712) -/
  | msgenc6
  /-- `MSGENC.7`, a BADMODE word (R712) -/
  | msgenc7
  /-- `MSGENC.8`, a BADMODE word (R712) -/
  | msgenc8
  /-- `MSGENC.9`, a BADMODE word (R712) -/
  | msgenc9
  /-- `MSGENC.10`, a BADMODE word (R712) -/
  | msgenc10
  /-- `MSGENC.11`, a BADMODE word (R712) -/
  | msgenc11
  /-- `MSGENC.12`, a BADMODE word (R712) -/
  | msgenc12
  /-- `MSGENC.13`, a BADMODE word (R712) -/
  | msgenc13
  /-- `MSGENC.14`, a BADMODE word (R712) -/
  | msgenc14
  /-- `MSGENC.15`, a BADMODE word (R712) -/
  | msgenc15
  /-- `MSGDEC.2`, a BADMODE word (R712) -/
  | msgdec2
  /-- `MSGDEC.3`, a BADMODE word (R712) -/
  | msgdec3
  /-- `MSGDEC.4`, a BADMODE word (R712) -/
  | msgdec4
  /-- `MSGDEC.5`, a BADMODE word (R712) -/
  | msgdec5
  /-- `MSGDEC.6`, a BADMODE word (R712) -/
  | msgdec6
  /-- `MSGDEC.7`, a BADMODE word (R712) -/
  | msgdec7
  /-- `MSGDEC.8`, a BADMODE word (R712) -/
  | msgdec8
  /-- `MSGDEC.9`, a BADMODE word (R712) -/
  | msgdec9
  /-- `MSGDEC.10`, a BADMODE word (R712) -/
  | msgdec10
  /-- `MSGDEC.11`, a BADMODE word (R712) -/
  | msgdec11
  /-- `MSGDEC.12`, a BADMODE word (R712) -/
  | msgdec12
  /-- `MSGDEC.13`, a BADMODE word (R712) -/
  | msgdec13
  /-- `MSGDEC.14`, a BADMODE word (R712) -/
  | msgdec14
  /-- `MSGDEC.15`, a BADMODE word (R712) -/
  | msgdec15
deriving DecidableEq, Repr

/-- The fields of a command word (R300), before any check. -/
structure CmdFields where
  /-- bits [31:12] (R303) -/
  rsvd : BitVec 20
  /-- bits [11:8] (R302) -/
  mode : BitVec 4
  /-- bits [7:0] (R301) -/
  op : BitVec 8
deriving DecidableEq, Repr

end Sys2Proof
end

