-- ==== Sys2Proof/WellFormed.lean ====
section
/-! DEFINITION. Which command fields name a command (R301 to R303, R306), and that every term of Instr is well formed. -/

namespace Sys2Proof

/-- R303: "RSVD, bits [31:12], must be 0 in every command." -/
def CmdFields.rsvdOk (f : CmdFields) : Bool :=
  f.rsvd == 0

/-- OP 0x10 and 0x11, the message operations, which take a MODE (R302). -/
def CmdFields.isMessage (f : CmdFields) : Bool :=
  f.op == 0x10 || f.op == 0x11

/-- R302: MODE is free on the message operations and must be 0 on every other OP. -/
def CmdFields.modeOk (f : CmdFields) : Bool :=
  f.isMessage || f.mode == 0

/-- R301: the OP values with a meaning are 0x00 to 0x07, 0x10 and 0x11. -/
def CmdFields.opOk (f : CmdFields) : Bool :=
  f.isMessage || decide (f.op.toNat ≤ 7)

/-- The fields name a command of R304: none of the three grounds of R306 for ILLEGAL holds. -/
def CmdFields.wf (f : CmdFields) : Bool :=
  f.rsvdOk && f.modeOk && f.opOk

/-- Every term of Instr is well formed: no constructor has an operand (R309), so there is nothing to
check on the term itself. The checks stand on the fields of a word, `CmdFields.wf`. -/
def Instr.wf (_ : Instr) : Bool :=
  true

end Sys2Proof
end

