-- ==== Sys2Proof/Decode.lean ====
section
/-! DEFINITION. The decoder of R305, total on every 32-bit word, rejecting by name, and the encoder from the table of R304. -/

namespace Sys2Proof

/-- Why `decode` calls a word ILLEGAL (R306). The engine completes every such word with
IllegalCommand; the name is the model's, for a reader. -/
inductive Reject where
  /-- a bit of RSVD is set (R303) -/
  | rsvdNonzero
  /-- MODE is not 0 and OP is no message operation (R302) -/
  | modeNonzero
  /-- OP is 0x08 to 0x0F or 0x12 to 0xFF (R306) -/
  | opUnknown
deriving DecidableEq, Repr

/-- The fields of a word (R300). -/
def fieldsOf (w : Word) : CmdFields :=
  { rsvd := w.extractLsb' 12 20, mode := w.extractLsb' 8 4, op := w.extractLsb' 0 8 }

/-- The word with given fields (R300). -/
def wordOf (f : CmdFields) : Word :=
  f.rsvd ++ f.mode ++ f.op

/-- The command OP = 0x10 names with a MODE: CBC, CTR or BADMODE (R302, R305). -/
def decodeMsgenc (mode : BitVec 4) : Instr :=
  match mode.toNat with
  | 0 => .msgencCbc
  | 1 => .msgencCtr
  | 2 => .msgenc2
  | 3 => .msgenc3
  | 4 => .msgenc4
  | 5 => .msgenc5
  | 6 => .msgenc6
  | 7 => .msgenc7
  | 8 => .msgenc8
  | 9 => .msgenc9
  | 10 => .msgenc10
  | 11 => .msgenc11
  | 12 => .msgenc12
  | 13 => .msgenc13
  | 14 => .msgenc14
  | _ => .msgenc15

/-- The command OP = 0x11 names with a MODE (R302, R305). -/
def decodeMsgdec (mode : BitVec 4) : Instr :=
  match mode.toNat with
  | 0 => .msgdecCbc
  | 1 => .msgdecCtr
  | 2 => .msgdec2
  | 3 => .msgdec3
  | 4 => .msgdec4
  | 5 => .msgdec5
  | 6 => .msgdec6
  | 7 => .msgdec7
  | 8 => .msgdec8
  | 9 => .msgdec9
  | 10 => .msgdec10
  | 11 => .msgdec11
  | 12 => .msgdec12
  | 13 => .msgdec13
  | 14 => .msgdec14
  | _ => .msgdec15

/-- The command an OP of 0x00 to 0x07 names (R304); every other OP is unknown (R306). -/
def decodePlain (op : BitVec 8) : Except Reject Instr :=
  match op.toNat with
  | 0 => .ok .nop
  | 1 => .ok .keyexp
  | 2 => .ok .encb
  | 3 => .ok .decb
  | 4 => .ok .gfmul
  | 5 => .ok .gfinv
  | 6 => .ok .sbox
  | 7 => .ok .isbox
  | _ => .error .opUnknown

/-- R305, the verdicts in the order shown there. -/
def decodeFields (f : CmdFields) : Except Reject Instr :=
  if f.rsvd ≠ 0 then .error .rsvdNonzero
  else if f.op = 0x10 then .ok (decodeMsgenc f.mode)
  else if f.op = 0x11 then .ok (decodeMsgdec f.mode)
  else if f.mode ≠ 0 then .error .modeNonzero
  else decodePlain f.op

/-- The decoder: a total function of every 32-bit word (R305). -/
def decode (w : Word) : Except Reject Instr :=
  decodeFields (fieldsOf w)

/-- OP and MODE of a message command's row (R304). -/
def msgFields (op : BitVec 8) (mode : BitVec 4) : CmdFields :=
  { rsvd := 0, mode := mode, op := op }

/-- OP of a command that takes no MODE (R304). -/
def plainFields (op : BitVec 8) : CmdFields :=
  { rsvd := 0, mode := 0, op := op }

/-- The OP and MODE columns of the table of R304, row by row. -/
def encodeFields : Instr → CmdFields
  | .nop => plainFields 0x00
  | .keyexp => plainFields 0x01
  | .encb => plainFields 0x02
  | .decb => plainFields 0x03
  | .gfmul => plainFields 0x04
  | .gfinv => plainFields 0x05
  | .sbox => plainFields 0x06
  | .isbox => plainFields 0x07
  | .msgencCbc => msgFields 0x10 0
  | .msgdecCbc => msgFields 0x11 0
  | .msgencCtr => msgFields 0x10 1
  | .msgdecCtr => msgFields 0x11 1
  | .msgenc2 => msgFields 0x10 2
  | .msgenc3 => msgFields 0x10 3
  | .msgenc4 => msgFields 0x10 4
  | .msgenc5 => msgFields 0x10 5
  | .msgenc6 => msgFields 0x10 6
  | .msgenc7 => msgFields 0x10 7
  | .msgenc8 => msgFields 0x10 8
  | .msgenc9 => msgFields 0x10 9
  | .msgenc10 => msgFields 0x10 10
  | .msgenc11 => msgFields 0x10 11
  | .msgenc12 => msgFields 0x10 12
  | .msgenc13 => msgFields 0x10 13
  | .msgenc14 => msgFields 0x10 14
  | .msgenc15 => msgFields 0x10 15
  | .msgdec2 => msgFields 0x11 2
  | .msgdec3 => msgFields 0x11 3
  | .msgdec4 => msgFields 0x11 4
  | .msgdec5 => msgFields 0x11 5
  | .msgdec6 => msgFields 0x11 6
  | .msgdec7 => msgFields 0x11 7
  | .msgdec8 => msgFields 0x11 8
  | .msgdec9 => msgFields 0x11 9
  | .msgdec10 => msgFields 0x11 10
  | .msgdec11 => msgFields 0x11 11
  | .msgdec12 => msgFields 0x11 12
  | .msgdec13 => msgFields 0x11 13
  | .msgdec14 => msgFields 0x11 14
  | .msgdec15 => msgFields 0x11 15

/-- The command word of an instruction (R304). -/
def encode (i : Instr) : Word :=
  wordOf (encodeFields i)

/-- The host's question: what the decoder reads from an instruction of `nbits` bits `w`. A command is
one 32-bit word written to CMD as a number (R201, R300), so bit k of `w` is bit k of the word and the
bits above `nbits` are 0; more than 32 bits are no command (R308). -/
def decodeTableWord (nbits w : Nat) : Option Instr :=
  if nbits ≤ 32 then
    match decode (BitVec.ofNat 32 (w % 2 ^ nbits)) with
    | .ok i => some i
    | .error _ => none
  else none

end Sys2Proof
end

