-- ==== Sys2Proof/Machine/Bytes.lean ====
section
/-! DEFINITION. Byte lanes: the bytes and words of the 16- and 32-byte registers, big-endian (R201). -/

namespace Sys2Proof.Machine

/-- Byte `i` of a word, byte 0 in bits [31:24] (R201, R501); 0 past the end. -/
def wordByte (w : Word) (i : Nat) : Byte :=
  if i < 4 then w.extractLsb' (8 * (3 - i)) 8 else 0

/-- The word of four bytes, the first in bits [31:24] (R201). -/
def wordOfBytes (b0 b1 b2 b3 : Byte) : Word :=
  b0 ++ b1 ++ b2 ++ b3

/-- Byte `i` of a block (R600), byte 0 most significant; 0 past the end. -/
def blockByte (b : Block) (i : Nat) : Byte :=
  if i < 16 then b.extractLsb' (8 * (15 - i)) 8 else 0

/-- The block with byte `i` = `f i` for i from 0 to 15. -/
def blockOfFn (f : Nat → Byte) : Block :=
  f 0 ++ f 1 ++ f 2 ++ f 3 ++ f 4 ++ f 5 ++ f 6 ++ f 7 ++
    f 8 ++ f 9 ++ f 10 ++ f 11 ++ f 12 ++ f 13 ++ f 14 ++ f 15

/-- The 16 bytes of a block, byte 0 first. -/
def blockBytes (b : Block) : List Byte :=
  (List.range 16).map (blockByte b)

/-- The block of a string of 16 bytes, the first most significant (`be_int` of R706). -/
def blockOfBytes (bs : List Byte) : Block :=
  blockOfFn (fun i => bs.getD i 0)

/-- Word `k` (0 to 3) of a block: bytes 4k to 4k+3 (R123, R201). -/
def blockWord (b : Block) (k : Nat) : Word :=
  b.extractLsb' (32 * (3 - k)) 32

/-- The block of four words, word 0 most significant (R123, R505). -/
def blockOfWords (w0 w1 w2 w3 : Word) : Block :=
  w0 ++ w1 ++ w2 ++ w3

/-- Word `k` (0 to 3) of a block replaced (R123, R201). -/
def setBlockWord (b : Block) (k : Nat) (v : Word) : Block :=
  let at_ (j : Nat) : Word := if j = k then v else blockWord b j
  blockOfWords (at_ 0) (at_ 1) (at_ 2) (at_ 3)

/-- Word `k` (0 to 7) of KEY: KEY[4k] to KEY[4k+3] (R122). -/
def keyWord (key : KeyReg) (k : Nat) : Word :=
  key.extractLsb' (32 * (7 - k)) 32

/-- Word `k` (0 to 7) of KEY replaced (R122). -/
def setKeyWord (key : KeyReg) (k : Nat) (v : Word) : KeyReg :=
  let at_ (j : Nat) : Word := if j = k then v else keyWord key j
  at_ 0 ++ at_ 1 ++ at_ 2 ++ at_ 3 ++ at_ 4 ++ at_ 5 ++ at_ 6 ++ at_ 7

/-- Byte `i` of KEY (R122); 0 past the end. -/
def keyByte (key : KeyReg) (i : Nat) : Byte :=
  if i < 32 then key.extractLsb' (8 * (31 - i)) 8 else 0

end Sys2Proof.Machine
end

