-- ==== Sys2Proof/Machine/Gf.lean ====
section
/-! DEFINITION. GF(2^8) arithmetic and the two S-box ROMs (41_gf_sbox.md). -/

namespace Sys2Proof.Machine

/-- Multiplication by x, `a (x) 0x02` (R434). -/
def xtime (a : Byte) : Byte :=
  (a <<< 1) ^^^ (if a.getLsbD 7 then 0x1B else 0x00)

/-- The loop of R433 from bit `i` on, `n` bits left: `p` the sum so far, `a` the operand doubled `i` times. -/
def gmulLoop (b : Byte) : Nat → Nat → Byte → Byte → Byte
  | 0, _, _, p => p
  | n + 1, i, a, p => gmulLoop b n (i + 1) (xtime a) (if b.getLsbD i then p ^^^ a else p)

/-- The product `a (x) b` in GF(2^8) (R433). -/
def gmul (a b : Byte) : Byte :=
  gmulLoop b 8 0 a 0x00

/-- `a` raised to a power below `2 ^ bits` under `(x)`, by squaring (R435). -/
def gpow (bits : Nat) (a : Byte) (n : Nat) : Byte :=
  match bits with
  | 0 => 0x01
  | bits + 1 =>
    let half := gpow bits (gmul a a) (n / 2)
    if n % 2 = 1 then gmul a half else half

/-- The multiplicative inverse, `a` to the power 254, with `inv(0x00) = 0x00` (R435, D35). -/
def ginv (a : Byte) : Byte :=
  gpow 8 a 254

/-- Left rotation of a byte (R436). -/
def rotl8 (b : Byte) (n : Nat) : Byte :=
  (b <<< n) ||| (b >>> (8 - n))

/-- The affine transform of the S-box (R436). -/
def affine (b : Byte) : Byte :=
  b ^^^ rotl8 b 1 ^^^ rotl8 b 2 ^^^ rotl8 b 3 ^^^ rotl8 b 4 ^^^ 0x63

/-- The inverse of `affine` (R436). -/
def affineInv (b : Byte) : Byte :=
  rotl8 b 1 ^^^ rotl8 b 3 ^^^ rotl8 b 6 ^^^ 0x05

/-- The S-box ROM, one block a row of the table of R439, column x0 most significant. -/
def sboxRows : List Block :=
  [0x637c777bf26b6fc53001672bfed7ab76,
   0xca82c97dfa5947f0add4a2af9ca472c0,
   0xb7fd9326363ff7cc34a5e5f171d83115,
   0x04c723c31896059a071280e2eb27b275,
   0x09832c1a1b6e5aa0523bd6b329e32f84,
   0x53d100ed20fcb15b6acbbe394a4c58cf,
   0xd0efaafb434d338545f9027f503c9fa8,
   0x51a3408f929d38f5bcb6da2110fff3d2,
   0xcd0c13ec5f974417c4a77e3d645d1973,
   0x60814fdc222a908846eeb814de5e0bdb,
   0xe0323a0a4906245cc2d3ac629195e479,
   0xe7c8376d8dd54ea96c56f4ea657aae08,
   0xba78252e1ca6b4c6e8dd741f4bbd8b8a,
   0x703eb5664803f60e613557b986c11d9e,
   0xe1f8981169d98e949b1e87e9ce5528df,
   0x8ca1890dbfe6426841992d0fb054bb16]

/-- The inverse S-box ROM, one block a row of the table of R440, column x0 most significant. -/
def invSboxRows : List Block :=
  [0x52096ad53036a538bf40a39e81f3d7fb,
   0x7ce339829b2fff87348e4344c4dee9cb,
   0x547b9432a6c2233dee4c950b42fac34e,
   0x082ea16628d924b2765ba2496d8bd125,
   0x72f8f66486689816d4a45ccc5d65b692,
   0x6c704850fdedb9da5e154657a78d9d84,
   0x90d8ab008cbcd30af7e45805b8b34506,
   0xd02c1e8fca3f0f02c1afbd0301138a6b,
   0x3a9111414f67dcea97f2cfcef0b4e673,
   0x96ac7422e7ad3585e2f937e81c75df6e,
   0x47f11a711d29c5896fb7620eaa18be1b,
   0xfc563e4bc6d279209adbc0fe78cd5af4,
   0x1fdda8338807c731b11210592780ec5f,
   0x60517fa919b54a0d2de57a9f93c99cef,
   0xa0e03b4dae2af5b0c8ebbb3c83539961,
   0x172b047eba77d626e169146355210c7d]

/-- Entry x = 16 * hi + lo of a ROM given by its rows (R439). -/
def romEntry (rows : List Block) (x : Byte) : Byte :=
  blockByte (rows.getD (x.toNat / 16) 0) (x.toNat % 16)

/-- `SBOX[x]` (R439, R441). -/
def sbox (x : Byte) : Byte :=
  romEntry sboxRows x

/-- `INVSBOX[y]` (R440, R441). -/
def invSbox (y : Byte) : Byte :=
  romEntry invSboxRows y

end Sys2Proof.Machine
end

