-- ==== Sys2Proof/Machine/KeySchedule.lean ====
section
/-! DEFINITION. The AES key expansion (42_key_schedule.md, R500 to R507): a total function of the key that touches no state (R505). -/

namespace Sys2Proof.Machine

/-- A schedule: the fifteen entries of the round-key RAM and the number of rounds (R505). -/
structure Schedule where
  rk : Vector Block 15
  nr : BitVec 4
deriving DecidableEq, Repr

/-- `RotWord` (R502). -/
def rotWord (w : Word) : Word :=
  wordOfBytes (wordByte w 1) (wordByte w 2) (wordByte w 3) (wordByte w 0)

/-- `SubWord` (R503). -/
def subWord (w : Word) : Word :=
  wordOfBytes (sbox (wordByte w 0)) (sbox (wordByte w 1)) (sbox (wordByte w 2)) (sbox (wordByte w 3))

/-- The round constant `rc_(j+1)`: rc_1 = 0x01, each next one doubled (R504). -/
def rcSucc : Nat → Byte
  | 0 => 0x01
  | j + 1 => xtime (rcSucc j)

/-- The round-constant word `Rcon(j)`, j from 1 (R504). -/
def rcon (j : Nat) : Word :=
  wordOfBytes (rcSucc (j - 1)) 0x00 0x00 0x00

/-- What R505 makes of `temp` = w[i-1] before the sum with w[i-Nk]. -/
def expandTemp (nk i : Nat) (temp : Word) : Word :=
  if i % nk = 0 then subWord (rotWord temp) ^^^ rcon (i / nk)
  else if nk = 8 ∧ i % nk = 4 then subWord temp
  else temp

/-- `w[i]` from the words before it, the latest first: `prev[0]` is w[i-1], `prev[nk-1]` is w[i-Nk] (R505). -/
def expandNext (nk i : Nat) (prev : List Word) : Word :=
  prev.getD (nk - 1) 0 ^^^ expandTemp nk i (prev.getD 0 0)

/-- `n` more words of the expansion, from index `i` on; the list holds the words so far, the latest first (R505). -/
def expandLoop (nk : Nat) : Nat → Nat → List Word → List Word
  | 0, _, prev => prev
  | n + 1, i, prev => expandLoop nk n (i + 1) (expandNext nk i prev :: prev)

/-- Nk of a key of `n` bytes (R500). -/
def nkOf (n : Nat) : Nat :=
  n / 4

/-- Nr of a key of `n` bytes (R500). -/
def nrOf (n : Nat) : Nat :=
  nkOf n + 6

/-- The first Nk words, the key itself, in order (R501, R505). -/
def keyWords (key : KeyReg) (nk : Nat) : List Word :=
  (List.range nk).map (keyWord key)

/-- The words w[0] to w[4*(Nr+1)-1] of the expansion of KEY[0 .. n-1], in order (R505). -/
def expandWords (key : KeyReg) (n : Nat) : List Word :=
  (expandLoop (nkOf n) (4 * (nrOf n + 1) - nkOf n) (nkOf n) (keyWords key (nkOf n)).reverse).reverse

/-- Round key `j` of a list of expansion words; zero where the list has no such words, which is every
j above Nr (R505, R506, D34). -/
def roundKeyOf (ws : List Word) (j : Nat) : Block :=
  blockOfWords (ws.getD (4 * j) 0) (ws.getD (4 * j + 1) 0) (ws.getD (4 * j + 2) 0) (ws.getD (4 * j + 3) 0)

/-- The fifteen entries of the round-key RAM made from the expansion words (R505, R506). -/
def roundKeys (ws : List Word) : Vector Block 15 :=
  #v[roundKeyOf ws 0, roundKeyOf ws 1, roundKeyOf ws 2, roundKeyOf ws 3, roundKeyOf ws 4,
     roundKeyOf ws 5, roundKeyOf ws 6, roundKeyOf ws 7, roundKeyOf ws 8, roundKeyOf ws 9,
     roundKeyOf ws 10, roundKeyOf ws 11, roundKeyOf ws 12, roundKeyOf ws 13, roundKeyOf ws 14]

/-- `expand` of R505, for a key of `n` = 16, 24 or 32 bytes. -/
def expand (key : KeyReg) (n : Nat) : Schedule :=
  { rk := roundKeys (expandWords key n), nr := BitVec.ofNat 4 (nrOf n) }

end Sys2Proof.Machine
end

