-- ==== Sys2Proof/Machine/BlockCipher.lean ====
section
/-! DEFINITION. The AES cipher and inverse cipher on one block (43_block_cipher.md, R600 to R610). The cipher state s[r][c] is byte r + 4c of the block (R600), so a state is a Block. -/

namespace Sys2Proof.Machine

/-- The block whose state has `f r c` in row r and column c (R600). -/
def blockOfState (f : Nat → Nat → Byte) : Block :=
  blockOfFn (fun i => f (i % 4) (i / 4))

/-- `s[r][c]` (R600). -/
def stateByte (s : Block) (r c : Nat) : Byte :=
  blockByte s (r + 4 * c)

/-- `AddRoundKey` (R602): the bytewise sum with the round key. -/
def addRoundKey (s k : Block) : Block :=
  s ^^^ k

/-- `SubBytes` (R603). -/
def subBytes (s : Block) : Block :=
  blockOfState (fun r c => sbox (stateByte s r c))

/-- `ShiftRows` (R604). -/
def shiftRows (s : Block) : Block :=
  blockOfState (fun r c => stateByte s r ((c + r) % 4))

/-- Row `r` of a circulant matrix with first row (m0, m1, m2, m3), times the column (a0, a1, a2, a3):
the entry of row r and column j is m_((j - r) mod 4) (R605, R608). -/
def circulantRow (m : Nat → Byte) (a : Nat → Byte) (r : Nat) : Byte :=
  gmul (m ((4 - r) % 4)) (a 0) ^^^ gmul (m ((5 - r) % 4)) (a 1) ^^^
    gmul (m ((6 - r) % 4)) (a 2) ^^^ gmul (m ((7 - r) % 4)) (a 3)

/-- The first row 02 03 01 01 of the MixColumns matrix (R605). -/
def mixRow : Nat → Byte
  | 0 => 0x02
  | 1 => 0x03
  | _ => 0x01

/-- The first row 0e 0b 0d 09 of the InvMixColumns matrix (R608). -/
def invMixRow : Nat → Byte
  | 0 => 0x0e
  | 1 => 0x0b
  | 2 => 0x0d
  | _ => 0x09

/-- `MixColumns` (R605). -/
def mixColumns (s : Block) : Block :=
  blockOfState (fun r c => circulantRow mixRow (fun j => stateByte s j c) r)

/-- `InvSubBytes` (R606). -/
def invSubBytes (s : Block) : Block :=
  blockOfState (fun r c => invSbox (stateByte s r c))

/-- `InvShiftRows` (R607). -/
def invShiftRows (s : Block) : Block :=
  blockOfState (fun r c => stateByte s r ((c + 4 - r) % 4))

/-- `InvMixColumns` (R608). -/
def invMixColumns (s : Block) : Block :=
  blockOfState (fun r c => circulantRow invMixRow (fun j => stateByte s j c) r)

/-- Round key `j` of a schedule. A schedule that a command uses has j at most Nr, hence at most 14
(R506, R511); past entry 14 the model reads zero (entry 11). -/
def roundKey (k : Schedule) (j : Nat) : Block :=
  k.rk.toList.getD j 0

/-- Main rounds 1 to `n` of `Cipher`, first round first (R609). -/
def cipherRounds (k : Schedule) : Nat → Block → Block
  | 0, s => s
  | n + 1, s => addRoundKey (mixColumns (shiftRows (subBytes (cipherRounds k n s)))) (roundKey k (n + 1))

/-- `Cipher` (R609). -/
def cipher (k : Schedule) (b : Block) : Block :=
  let s := cipherRounds k (k.nr.toNat - 1) (addRoundKey b (roundKey k 0))
  addRoundKey (shiftRows (subBytes s)) (roundKey k k.nr.toNat)

/-- The undoing of main rounds `n` down to 1, the last first (R610). -/
def invCipherRounds (k : Schedule) : Nat → Block → Block
  | 0, s => s
  | n + 1, s =>
    invCipherRounds k n (invSubBytes (invShiftRows (invMixColumns (addRoundKey s (roundKey k (n + 1))))))

/-- `InvCipher` (R610). -/
def invCipher (k : Schedule) (b : Block) : Block :=
  let s := invSubBytes (invShiftRows (addRoundKey b (roundKey k k.nr.toNat)))
  addRoundKey (invCipherRounds k (k.nr.toNat - 1) s) (roundKey k 0)

end Sys2Proof.Machine
end

