-- ==== Sys2Proof/Machine/Chaining.lean ====
section
/-! DEFINITION. PKCS#7 padding, CBC and CTR over byte strings (44_chaining_modes.md, R702 to R707), for any block function. -/

namespace Sys2Proof.Machine

/-- The pad length `16 - (len mod 16)`, 1 to 16 (R702). -/
def padLen (len : Nat) : Nat :=
  16 - len % 16

/-- `pad` (R702). -/
def pad (m : List Byte) : List Byte :=
  m ++ List.replicate (padLen m.length) (BitVec.ofNat 8 (padLen m.length))

/-- `len(pad(M))` for a message of `len` bytes (R702, R708). -/
def paddedLen (len : Nat) : Nat :=
  16 * (len / 16 + 1)

/-- `unpad` (R703); `none` is InvalidPadding. -/
def unpad (p : List Byte) : Option (List Byte) :=
  let n := (p.getLastD 0).toNat
  if n = 0 ∨ n > 16 then none
  else if (p.drop (p.length - n)).all (fun b => b == p.getLastD 0) then some (p.take (p.length - n))
  else none

/-- The first `n` blocks of a byte string (R704, R705). -/
def blocksOf : Nat → List Byte → List Block
  | 0, _ => []
  | n + 1, bs => blockOfBytes (bs.take 16) :: blocksOf n (bs.drop 16)

/-- The bytes of a list of blocks, in order. -/
def bytesOf (bs : List Block) : List Byte :=
  bs.flatMap blockBytes

/-- The ciphertext blocks of R704 from chaining value `st` on, with block encryption `e`. -/
def cbcEncrypt (e : Block → Block) : Block → List Block → List Block
  | _, [] => []
  | st, p :: ps => e (p ^^^ st) :: cbcEncrypt e (e (p ^^^ st)) ps

/-- The plaintext blocks of R705 from chaining value `st` on, with block decryption `d`. -/
def cbcDecrypt (d : Block → Block) : Block → List Block → List Block
  | _, [] => []
  | st, c :: cs => (d c ^^^ st) :: cbcDecrypt d c cs

/-- The counter block of index `i`: `(c0 + i) mod 2^128`, the IV read big-endian (R706). -/
def ctrBlock (iv : Block) (i : Nat) : Block :=
  iv + BitVec.ofNat 128 i

/-- `ceil(len / 16)` (R707). -/
def blockCount (len : Nat) : Nat :=
  (len + 15) / 16

/-- `n` blocks of R707 from counter index `i` on; a last partial block uses the first keystream bytes only. -/
def ctrLoop (e : Block → Block) (iv : Block) : Nat → Nat → List Byte → List Byte
  | 0, _, _ => []
  | n + 1, i, xs =>
    List.zipWith (fun x k => x ^^^ k) (xs.take 16) (blockBytes (e (ctrBlock iv i))) ++
      ctrLoop e iv n (i + 1) (xs.drop 16)

/-- The output of `ctr_xcrypt` (R707). -/
def ctrXcrypt (e : Block → Block) (iv : Block) (xs : List Byte) : List Byte :=
  ctrLoop e iv (blockCount xs.length) 0 xs

end Sys2Proof.Machine
end

