-- ==== Sys2Proof/Config.lean ====
section
/-! DEFINITION. What a build of the engine fixes (MSGBUF_BYTES, R11) and the free values the spec leaves open (R209). -/

namespace Sys2Proof

/-- The build parameter of R11 and U5. MSGBUF_BYTES is a multiple of 16 from 16 to 65536, so a build is
a number of 16-byte blocks, held less one: every value of this type is a legal build and every legal
build is one value. -/
structure Config where
  blocksLessOne : Fin 4096
deriving DecidableEq, Repr

/-- MSGBUF_BYTES of a build (R11). -/
def Config.msgbufBytes (c : Config) : Nat :=
  16 * (c.blocksLessOne.val + 1)

/-- The spec's default build: 4096 bytes (R11, D15). -/
def Config.standard : Config := ⟨255⟩

/-- FREE VALUE (entry 4). What the n-th host read of unwritten bytes finds in the byte at a port
address of IN or OUT that nothing has written since power-on: "any value" (R209, U2). -/
opaque Config.freeByte : Nat → Nat → Byte

end Sys2Proof
end

