-- ==== Sys2Proof/Machine/State.lean ====
section
/-! DEFINITION. The state of the engine (10_state.md), the reasons a step can stop, and the state after power-on (R900, R901). -/

namespace Sys2Proof.Machine

/-- The bytes of the IN and OUT buffers that something has written since power-on, by port address
(R205), addresses strictly rising. An address with no entry has no value (R209; entries 4 and 5). -/
abbrev Memory := List Host.Cell

/-- One access of the host on the port (R200). Any 18-bit address and any 32-bit word may be used. -/
inductive Access where
  /-- `HostRead(a)` -/
  | read (a : Addr)
  /-- `HostWrite(a, v)` -/
  | write (a : Addr) (v : Word)
deriving DecidableEq, Repr

/-- Which agent moves, and what it does (R100, R403, R900, R901; entry 2). -/
inductive Event where
  /-- the host makes one access (R200) -/
  | access (x : Access)
  /-- the engine has the turn: it executes if it is busy (R402) -/
  | engine
  /-- the platform asserts reset (R900) -/
  | reset
  /-- the platform powers the engine up (R901) -/
  | powerOn
deriving DecidableEq, Repr

/-- The port's response to one access (R200, R202, R809; entry 6). -/
structure PortResp where
  /-- the access ended with BusError (R202) -/
  busError : Bool
  /-- the word a read returned; a write returns none -/
  rdata : Option Word
deriving DecidableEq, Repr

/-- The architectural state (R100 to R137) and, last, the model's own fields. -/
structure State where
  /-- CMD: the last command word issued (R105) -/
  cmd : Word
  /-- STATUS.BUSY (R107) -/
  busy : Bool
  /-- STATUS.DONE (R108) -/
  done : Bool
  /-- STATUS.ERR (R109) -/
  err : Bool
  /-- STATUS.KSVALID (R110) -/
  ksvalid : Bool
  /-- STATUS.ERRCODE (R111) -/
  errcode : BitVec 4
  /-- KEYLEN[5:0] (R113) -/
  keylen : BitVec 6
  /-- IVLEN[4:0] (R114) -/
  ivlen : BitVec 5
  /-- BLKLEN[4:0] (R115) -/
  blklen : BitVec 5
  /-- MSGLEN[16:0] (R116) -/
  msglen : BitVec 17
  /-- OUTLEN[16:0] (R117) -/
  outlen : BitVec 17
  /-- GFA[7:0] (R118) -/
  gfa : Byte
  /-- GFB[7:0] (R119) -/
  gfb : Byte
  /-- GFP[7:0] (R120) -/
  gfp : Byte
  /-- KEY[0..31] (R122) -/
  key : KeyReg
  /-- IV[0..15] (R123) -/
  iv : Block
  /-- CHAIN[0..15] (R124) -/
  chain : Block
  /-- BLKIN[0..15] (R125) -/
  blkin : Block
  /-- BLKOUT[0..15] (R126) -/
  blkout : Block
  /-- the round-key RAM, RK[0] to RK[14] (R127) -/
  rk : Vector Block 15
  /-- the IN and OUT buffers (R128, R129) -/
  mem : Memory
  /-- the command word issued and not yet complete (R131) -/
  pending : Option Word
  /-- ks_nr: the rounds of the schedule in the round-key RAM (R131) -/
  ksNr : BitVec 4
  /-- MODEL's own: the build (R11, R12; entry 1) -/
  cfg : Config
  /-- MODEL's own: what the agents do next (R403, U3, U4; entries 2 and 3) -/
  agenda : List Event
  /-- MODEL's own: the port's response to the access of the last step (entry 6) -/
  resp : Option PortResp
  /-- MODEL's own: how many host reads have drawn free values (R209; entry 4) -/
  freeCount : Nat
deriving DecidableEq, Repr

/-- Why the machine stops. -/
inductive Fault where
  /-- Raised by MSGENC.CBC, MSGDEC.CBC, MSGENC.CTR and MSGDEC.CTR when IN[0 .. MSGLEN-1] holds a byte
  that nothing has written since power-on: the spec's `fault(UninitRead)` (R209, R824, U1). Safe: the
  hardware goes on with whatever the byte holds (entry 5). -/
  | uninitRead
deriving DecidableEq, Repr

/-- Why an instruction has no meaning. -/
inductive Refusal where
  /-- Raised by an arm of `exec` whose instruction has no meaning yet; no arm does. Safe: the machine
  stops where the hardware goes on. -/
  | notModelled (mnemonic : String)
deriving DecidableEq, Repr

/-- The state after power-on (R900, R901): every register 0, no command pending, nothing in IN or OUT
written, of the spec's default build (R11), with nothing on the agenda (entries 1, 2, 4 and 6). -/
def State.reset : State :=
  { cmd := 0, busy := false, done := false, err := false, ksvalid := false, errcode := 0,
    keylen := 0, ivlen := 0, blklen := 0, msglen := 0, outlen := 0, gfa := 0, gfb := 0, gfp := 0,
    key := 0, iv := 0, chain := 0, blkin := 0, blkout := 0, rk := Vector.replicate 15 0, mem := [],
    pending := none, ksNr := 0, cfg := Config.standard, agenda := [], resp := none, freeCount := 0 }

end Sys2Proof.Machine
end

