-- ==== Sys2Proof/Machine/Flags.lean ====
section
/-! DEFINITION. The STATUS register: its fields' changes at issue and completion, and the word it reads as (R106 to R112, R401, R404, R801). -/

namespace Sys2Proof.Machine

/-- The completion codes of R801. -/
inductive Code where
  | success
  | invalidKeyLength
  | invalidIVLength
  | invalidBlockLength
  | invalidPadding
  | unsupportedMode
  | illegalCommand
  | lengthOverflow
deriving DecidableEq, Repr

/-- The ERRCODE of a code (R801). -/
def codeBits : Code → BitVec 4
  | .success => 0
  | .invalidKeyLength => 1
  | .invalidIVLength => 2
  | .invalidBlockLength => 3
  | .invalidPadding => 4
  | .unsupportedMode => 5
  | .illegalCommand => 6
  | .lengthOverflow => 7

/-- What `complete(code)` writes of STATUS (R404): BUSY, DONE, ERR and ERRCODE. -/
def statusAtCompletion (c : Code) (s : State) : State :=
  { s with busy := false, done := true, err := codeBits c != 0, errcode := codeBits c }

/-- What an issue writes of STATUS (R401): KSVALID and NR keep their values. -/
def statusAtIssue (s : State) : State :=
  { s with busy := true, done := false, err := false, errcode := 0 }

/-- STATUS.NR: ks_nr while KSVALID = 1, else 0 (R112). -/
def statusNr (s : State) : BitVec 4 :=
  if s.ksvalid then s.ksNr else 0

/-- STATUS as the host reads it (R106). -/
def statusWord (s : State) : Word :=
  (0 : BitVec 12) ++ statusNr s ++ (0 : BitVec 4) ++ s.errcode ++ (0 : BitVec 4) ++
    BitVec.ofBool s.ksvalid ++ BitVec.ofBool s.err ++ BitVec.ofBool s.done ++ BitVec.ofBool s.busy

end Sys2Proof.Machine
end

