-- ==== Sys2Proof/Machine/Ops.lean ====
section
/-! DEFINITION. The named operations: the buffer memory, issue, completion and failure, the schedule cache, reset and power-on. -/

namespace Sys2Proof.Machine

/-- The byte at a port address of a buffer; none where nothing has written it since power-on (R209). -/
def memRead (m : Memory) (a : Nat) : Option Byte :=
  match m with
  | [] => none
  | (b, v) :: rest => if b = a then some v else memRead rest a

/-- One byte written; the addresses stay strictly rising (R128, R129). -/
def memWrite (m : Memory) (a : Nat) (v : Byte) : Memory :=
  match m with
  | [] => [(a, v)]
  | (b, w) :: rest =>
    if a < b then (a, v) :: (b, w) :: rest
    else if a = b then (a, v) :: rest
    else (b, w) :: memWrite rest a v

/-- Bytes written from an address on (`MemWrite`, R208). -/
def memWriteBytes (m : Memory) (a : Nat) : List Byte → Memory
  | [] => m
  | v :: vs => memWriteBytes (memWrite m a v) (a + 1) vs

/-- `n` bytes read from an address on (`MemRead`, R208); none if one of them is unwritten. -/
def memReadBytes (m : Memory) (a : Nat) : Nat → Option (List Byte)
  | 0 => some []
  | n + 1 =>
    match memRead m a, memReadBytes m (a + 1) n with
    | some v, some vs => some (v :: vs)
    | _, _ => none

/-- The canonical form of a memory: addresses strictly rising. An unlisted address has no value, so no
entry can equal what it reads as. -/
def memWf : Memory → Bool
  | [] => true
  | [_] => true
  | (a, _) :: (b, v) :: rest => decide (a < b) && memWf ((b, v) :: rest)

/-- The port address of IN[0] (R205). -/
def inBase : Nat := 0x10000

/-- The port address of OUT[0] (R205). -/
def outBase : Nat := 0x20000

/-- A port address lies in the IN buffer of a build (R204). -/
def inBuffer (c : Config) (a : Nat) : Bool :=
  decide (inBase ≤ a) && decide (a < inBase + c.msgbufBytes)

/-- A port address lies in the OUT buffer of a build (R204). -/
def outBuffer (c : Config) (a : Nat) : Bool :=
  decide (outBase ≤ a) && decide (a < outBase + c.msgbufBytes)

/-- Every listed byte lies in IN or OUT: nothing is stored at a reserved address (R135, R204). -/
def memInBuffers (c : Config) (m : Memory) : Bool :=
  m.all (fun cell => inBuffer c cell.1 || outBuffer c cell.1)

/-- The issue of a command word while the engine is idle (R401). -/
def issue (v : Word) (s : State) : State :=
  { statusAtIssue s with cmd := v, pending := some v }

/-- `complete(code)` (R404): the end of every command, and the one operation by which an error is
raised. There is no trap (R814): nothing saves a pc, changes a mode or returns. -/
def complete (c : Code) (s : State) : State :=
  { statusAtCompletion c s with pending := none }

/-- `fail(code)` of the message commands (R700). -/
def failMsg (c : Code) (s : State) : State :=
  complete c { s with outlen := 0 }

/-- KEYLEN is 16, 24 or 32 (R113, R508). -/
def keylenLegal (s : State) : Bool :=
  s.keylen == 16 || s.keylen == 24 || s.keylen == 32

/-- `expand(KEY[0 .. KEYLEN-1])` (R505, R508). -/
def expandKey (s : State) : Schedule :=
  expand s.key s.keylen.toNat

/-- The schedule in the cache (R508). -/
def cachedSchedule (s : State) : Schedule :=
  { rk := s.rk, nr := s.ksNr }

/-- `ensure_schedule` (R508); none is InvalidKeyLength. -/
def ensureSchedule (s : State) : Option Schedule :=
  if s.ksvalid then some (cachedSchedule s)
  else if keylenLegal s then some (expandKey s)
  else none

/-- `commit_schedule` (R507). -/
def commitSchedule (k : Schedule) (s : State) : State :=
  { s with rk := k.rk, ksNr := k.nr, ksvalid := true }

/-- The effect of reset (R900): every register of the engine, but not IN or OUT. The agenda, the build
and the free values' counter are no state of the engine; no access is answered. -/
def assertReset (s : State) : State :=
  { State.reset with mem := s.mem, cfg := s.cfg, agenda := s.agenda, freeCount := s.freeCount }

/-- Power-on: reset, and every byte of IN and OUT unspecified (R901). -/
def assertPowerOn (s : State) : State :=
  { assertReset s with mem := [] }

end Sys2Proof.Machine
end

