-- ==== Sys2Proof/Machine/Operands.lean ====
section
/-! DEFINITION. How the commands read their operands and write their results (R309, R700, R701): every operand is a register or the IN buffer. -/

namespace Sys2Proof.Machine

/-- The key check and `msg_checks` of every message command, in order (R700, R701, R708 to R711). -/
def msgPrologue (s : State) : Except Code Schedule :=
  match ensureSchedule s with
  | none => .error .invalidKeyLength
  | some k =>
    if s.ivlen ≠ 16 then .error .invalidIVLength
    else if s.msglen.toNat > s.cfg.msgbufBytes then .error .lengthOverflow
    else .ok k

/-- The checks of ENCB and DECB, in order (R611, R612). -/
def blockPrologue (s : State) : Except Code Schedule :=
  match ensureSchedule s with
  | none => .error .invalidKeyLength
  | some k => if s.blklen ≠ 16 then .error .invalidBlockLength else .ok k

/-- `MemRead(IN, 0, MSGLEN)` (R208); none where it meets an unwritten byte (R824). -/
def readMessage (s : State) : Option (List Byte) :=
  memReadBytes s.mem inBase s.msglen.toNat

/-- The results of a successful message command: `MemWrite(OUT, 0, out)`, OUTLEN, CHAIN and the
schedule, then `complete(0)` (R708 to R711). -/
def finishMessage (k : Schedule) (out : List Byte) (chain : Block) (s : State) : State :=
  complete .success
    (commitSchedule k
      { s with mem := memWriteBytes s.mem outBase out, outlen := BitVec.ofNat 17 out.length, chain := chain })

/-- The results of a successful block command: BLKOUT and the schedule, then `complete(0)` (R611, R612). -/
def finishBlock (k : Schedule) (out : Block) (s : State) : State :=
  complete .success (commitSchedule k { s with blkout := out })

/-- The result of a field command: GFP, then `complete(0)` (R443 to R446). -/
def finishField (v : Byte) (s : State) : State :=
  complete .success { s with gfp := v }

end Sys2Proof.Machine
end

