-- ==== Sys2Proof/Machine/BadMode.lean ====
section
/-! DEFINITION. The meanings of the 28 BADMODE words (R712): each fails with UnsupportedMode before any other check. -/

namespace Sys2Proof.Machine

/-- MSGENC.2 (R712). -/
def execMsgenc2 (s : State) : Host.Outcome State Fault Refusal :=
  .next (failMsg .unsupportedMode s)

/-- MSGENC.3 (R712). -/
def execMsgenc3 (s : State) : Host.Outcome State Fault Refusal :=
  .next (failMsg .unsupportedMode s)

/-- MSGENC.4 (R712). -/
def execMsgenc4 (s : State) : Host.Outcome State Fault Refusal :=
  .next (failMsg .unsupportedMode s)

/-- MSGENC.5 (R712). -/
def execMsgenc5 (s : State) : Host.Outcome State Fault Refusal :=
  .next (failMsg .unsupportedMode s)

/-- MSGENC.6 (R712). -/
def execMsgenc6 (s : State) : Host.Outcome State Fault Refusal :=
  .next (failMsg .unsupportedMode s)

/-- MSGENC.7 (R712). -/
def execMsgenc7 (s : State) : Host.Outcome State Fault Refusal :=
  .next (failMsg .unsupportedMode s)

/-- MSGENC.8 (R712). -/
def execMsgenc8 (s : State) : Host.Outcome State Fault Refusal :=
  .next (failMsg .unsupportedMode s)

/-- MSGENC.9 (R712). -/
def execMsgenc9 (s : State) : Host.Outcome State Fault Refusal :=
  .next (failMsg .unsupportedMode s)

/-- MSGENC.10 (R712). -/
def execMsgenc10 (s : State) : Host.Outcome State Fault Refusal :=
  .next (failMsg .unsupportedMode s)

/-- MSGENC.11 (R712). -/
def execMsgenc11 (s : State) : Host.Outcome State Fault Refusal :=
  .next (failMsg .unsupportedMode s)

/-- MSGENC.12 (R712). -/
def execMsgenc12 (s : State) : Host.Outcome State Fault Refusal :=
  .next (failMsg .unsupportedMode s)

/-- MSGENC.13 (R712). -/
def execMsgenc13 (s : State) : Host.Outcome State Fault Refusal :=
  .next (failMsg .unsupportedMode s)

/-- MSGENC.14 (R712). -/
def execMsgenc14 (s : State) : Host.Outcome State Fault Refusal :=
  .next (failMsg .unsupportedMode s)

/-- MSGENC.15 (R712). -/
def execMsgenc15 (s : State) : Host.Outcome State Fault Refusal :=
  .next (failMsg .unsupportedMode s)

/-- MSGDEC.2 (R712). -/
def execMsgdec2 (s : State) : Host.Outcome State Fault Refusal :=
  .next (failMsg .unsupportedMode s)

/-- MSGDEC.3 (R712). -/
def execMsgdec3 (s : State) : Host.Outcome State Fault Refusal :=
  .next (failMsg .unsupportedMode s)

/-- MSGDEC.4 (R712). -/
def execMsgdec4 (s : State) : Host.Outcome State Fault Refusal :=
  .next (failMsg .unsupportedMode s)

/-- MSGDEC.5 (R712). -/
def execMsgdec5 (s : State) : Host.Outcome State Fault Refusal :=
  .next (failMsg .unsupportedMode s)

/-- MSGDEC.6 (R712). -/
def execMsgdec6 (s : State) : Host.Outcome State Fault Refusal :=
  .next (failMsg .unsupportedMode s)

/-- MSGDEC.7 (R712). -/
def execMsgdec7 (s : State) : Host.Outcome State Fault Refusal :=
  .next (failMsg .unsupportedMode s)

/-- MSGDEC.8 (R712). -/
def execMsgdec8 (s : State) : Host.Outcome State Fault Refusal :=
  .next (failMsg .unsupportedMode s)

/-- MSGDEC.9 (R712). -/
def execMsgdec9 (s : State) : Host.Outcome State Fault Refusal :=
  .next (failMsg .unsupportedMode s)

/-- MSGDEC.10 (R712). -/
def execMsgdec10 (s : State) : Host.Outcome State Fault Refusal :=
  .next (failMsg .unsupportedMode s)

/-- MSGDEC.11 (R712). -/
def execMsgdec11 (s : State) : Host.Outcome State Fault Refusal :=
  .next (failMsg .unsupportedMode s)

/-- MSGDEC.12 (R712). -/
def execMsgdec12 (s : State) : Host.Outcome State Fault Refusal :=
  .next (failMsg .unsupportedMode s)

/-- MSGDEC.13 (R712). -/
def execMsgdec13 (s : State) : Host.Outcome State Fault Refusal :=
  .next (failMsg .unsupportedMode s)

/-- MSGDEC.14 (R712). -/
def execMsgdec14 (s : State) : Host.Outcome State Fault Refusal :=
  .next (failMsg .unsupportedMode s)

/-- MSGDEC.15 (R712). -/
def execMsgdec15 (s : State) : Host.Outcome State Fault Refusal :=
  .next (failMsg .unsupportedMode s)

end Sys2Proof.Machine
end

