-- ==== Sys2Proof/Machine/Blocks.lean ====
section
/-! DEFINITION. The meanings of ENCB and DECB (43_block_cipher.md). -/

namespace Sys2Proof.Machine

/-- ENCB (R611). -/
def execEncb (s : State) : Host.Outcome State Fault Refusal :=
  match blockPrologue s with
  | .error c => .next (complete c s)
  | .ok k => .next (finishBlock k (cipher k s.blkin) s)

/-- DECB (R612). -/
def execDecb (s : State) : Host.Outcome State Fault Refusal :=
  match blockPrologue s with
  | .error c => .next (complete c s)
  | .ok k => .next (finishBlock k (invCipher k s.blkin) s)

end Sys2Proof.Machine
end

