-- ==== Sys2Proof/Machine/Control.lean ====
section
/-! DEFINITION. The meaning of NOP (40_command_engine.md). -/

namespace Sys2Proof.Machine

/-- NOP (R408). -/
def execNop (s : State) : Host.Outcome State Fault Refusal :=
  .next (complete .success s)

end Sys2Proof.Machine
end

