-- ==== Sys2Proof/Machine/Field.lean ====
section
/-! DEFINITION. The meanings of GFMUL, GFINV, SBOX and ISBOX (41_gf_sbox.md). -/

namespace Sys2Proof.Machine

/-- GFMUL (R443). -/
def execGfmul (s : State) : Host.Outcome State Fault Refusal :=
  .next (finishField (gmul s.gfa s.gfb) s)

/-- GFINV (R444). -/
def execGfinv (s : State) : Host.Outcome State Fault Refusal :=
  .next (finishField (ginv s.gfa) s)

/-- SBOX (R445). -/
def execSbox (s : State) : Host.Outcome State Fault Refusal :=
  .next (finishField (sbox s.gfa) s)

/-- ISBOX (R446). -/
def execIsbox (s : State) : Host.Outcome State Fault Refusal :=
  .next (finishField (invSbox s.gfa) s)

end Sys2Proof.Machine
end

