-- ==== Sys2Proof/Machine/Keys.lean ====
section
/-! DEFINITION. The meaning of KEYEXP (42_key_schedule.md). -/

namespace Sys2Proof.Machine

/-- KEYEXP (R510): it expands even when a schedule is cached. -/
def execKeyexp (s : State) : Host.Outcome State Fault Refusal :=
  if keylenLegal s then .next (complete .success (commitSchedule (expandKey s) s))
  else .next (complete .invalidKeyLength s)

end Sys2Proof.Machine
end

