-- ==== Sys2Proof/Machine/Messages.lean ====
section
/-! DEFINITION. The meanings of the four message commands (44_chaining_modes.md, R708 to R711). -/

namespace Sys2Proof.Machine

/-- The ciphertext blocks of MSGENC.CBC for a message (R702, R704, R708). -/
def cbcCiphertext (k : Schedule) (iv : Block) (m : List Byte) : List Block :=
  cbcEncrypt (cipher k) iv (blocksOf (m.length / 16 + 1) (pad m))

/-- The decrypted bytes of MSGDEC.CBC before `unpad` (R705, R709). -/
def cbcPlaintext (k : Schedule) (iv : Block) (m : List Byte) : List Byte :=
  bytesOf (cbcDecrypt (invCipher k) iv (blocksOf (m.length / 16) m))

/-- The last ciphertext block of a nonempty ciphertext (R705: `state_n`). -/
def lastBlock (iv : Block) (m : List Byte) : Block :=
  (blocksOf (m.length / 16) m).getLastD iv

/-- MSGENC.CBC (R708). -/
def execMsgencCbc (s : State) : Host.Outcome State Fault Refusal :=
  match msgPrologue s with
  | .error c => .next (failMsg c s)
  | .ok k =>
    if paddedLen s.msglen.toNat > s.cfg.msgbufBytes then .next (failMsg .lengthOverflow s)
    else match readMessage s with
      | none => .fault .uninitRead
      | some m =>
        .next (finishMessage k (bytesOf (cbcCiphertext k s.iv m)) ((cbcCiphertext k s.iv m).getLastD s.iv) s)

/-- MSGDEC.CBC (R709). -/
def execMsgdecCbc (s : State) : Host.Outcome State Fault Refusal :=
  match msgPrologue s with
  | .error c => .next (failMsg c s)
  | .ok k =>
    if s.msglen.toNat = 0 ∨ s.msglen.toNat % 16 ≠ 0 then .next (failMsg .invalidBlockLength s)
    else match readMessage s with
      | none => .fault .uninitRead
      | some m =>
        match unpad (cbcPlaintext k s.iv m) with
        | none => .next (failMsg .invalidPadding s)
        | some p => .next (finishMessage k p (lastBlock s.iv m) s)

/-- The transition of both CTR commands (R707, R710, R711): CHAIN gets the next counter. -/
def ctrCommand (s : State) : Host.Outcome State Fault Refusal :=
  match msgPrologue s with
  | .error c => .next (failMsg c s)
  | .ok k =>
    match readMessage s with
    | none => .fault .uninitRead
    | some m =>
      .next (finishMessage k (ctrXcrypt (cipher k) s.iv m) (ctrBlock s.iv (blockCount m.length)) s)

/-- MSGENC.CTR (R710). -/
def execMsgencCtr (s : State) : Host.Outcome State Fault Refusal :=
  ctrCommand s

/-- MSGDEC.CTR (R711). -/
def execMsgdecCtr (s : State) : Host.Outcome State Fault Refusal :=
  ctrCommand s

end Sys2Proof.Machine
end

