-- ==== Sys2Proof/Machine/Dispatch.lean ====
section
/-! DEFINITION. The dispatch of `execute` (R402): one arm for each command, in the order of spec/opcode_table.json. -/

namespace Sys2Proof.Machine

def exec (i : Instr) (s : State) : Host.Outcome State Fault Refusal :=
  match i with
  | .nop => Sys2Proof.Machine.execNop s
  | .keyexp => Sys2Proof.Machine.execKeyexp s
  | .encb => Sys2Proof.Machine.execEncb s
  | .decb => Sys2Proof.Machine.execDecb s
  | .gfmul => Sys2Proof.Machine.execGfmul s
  | .gfinv => Sys2Proof.Machine.execGfinv s
  | .sbox => Sys2Proof.Machine.execSbox s
  | .isbox => Sys2Proof.Machine.execIsbox s
  | .msgencCbc => Sys2Proof.Machine.execMsgencCbc s
  | .msgdecCbc => Sys2Proof.Machine.execMsgdecCbc s
  | .msgencCtr => Sys2Proof.Machine.execMsgencCtr s
  | .msgdecCtr => Sys2Proof.Machine.execMsgdecCtr s
  | .msgenc2 => Sys2Proof.Machine.execMsgenc2 s
  | .msgenc3 => Sys2Proof.Machine.execMsgenc3 s
  | .msgenc4 => Sys2Proof.Machine.execMsgenc4 s
  | .msgenc5 => Sys2Proof.Machine.execMsgenc5 s
  | .msgenc6 => Sys2Proof.Machine.execMsgenc6 s
  | .msgenc7 => Sys2Proof.Machine.execMsgenc7 s
  | .msgenc8 => Sys2Proof.Machine.execMsgenc8 s
  | .msgenc9 => Sys2Proof.Machine.execMsgenc9 s
  | .msgenc10 => Sys2Proof.Machine.execMsgenc10 s
  | .msgenc11 => Sys2Proof.Machine.execMsgenc11 s
  | .msgenc12 => Sys2Proof.Machine.execMsgenc12 s
  | .msgenc13 => Sys2Proof.Machine.execMsgenc13 s
  | .msgenc14 => Sys2Proof.Machine.execMsgenc14 s
  | .msgenc15 => Sys2Proof.Machine.execMsgenc15 s
  | .msgdec2 => Sys2Proof.Machine.execMsgdec2 s
  | .msgdec3 => Sys2Proof.Machine.execMsgdec3 s
  | .msgdec4 => Sys2Proof.Machine.execMsgdec4 s
  | .msgdec5 => Sys2Proof.Machine.execMsgdec5 s
  | .msgdec6 => Sys2Proof.Machine.execMsgdec6 s
  | .msgdec7 => Sys2Proof.Machine.execMsgdec7 s
  | .msgdec8 => Sys2Proof.Machine.execMsgdec8 s
  | .msgdec9 => Sys2Proof.Machine.execMsgdec9 s
  | .msgdec10 => Sys2Proof.Machine.execMsgdec10 s
  | .msgdec11 => Sys2Proof.Machine.execMsgdec11 s
  | .msgdec12 => Sys2Proof.Machine.execMsgdec12 s
  | .msgdec13 => Sys2Proof.Machine.execMsgdec13 s
  | .msgdec14 => Sys2Proof.Machine.execMsgdec14 s
  | .msgdec15 => Sys2Proof.Machine.execMsgdec15 s

end Sys2Proof.Machine
end

