-- ==== Sys2Proof/Machine/Port.lean ====
section
/-! DEFINITION. The host port: the address map, reads and writes (20_memory.md, R200 to R212; 10_state.md, R103 to R135). -/

namespace Sys2Proof.Machine

/-- What stands at an aligned port address (R103, R204). -/
inductive Target where
  | id
  | cmd
  | status
  | keylen
  | ivlen
  | blklen
  | msglen
  | outlen
  | gfa
  | gfb
  | gfp
  | bufsize
  /-- word k of KEY -/
  | key (k : Nat)
  /-- word k of IV -/
  | iv (k : Nat)
  /-- word k of CHAIN -/
  | chain (k : Nat)
  /-- word k of BLKIN -/
  | blkin (k : Nat)
  /-- word k of BLKOUT -/
  | blkout (k : Nat)
  /-- word k of round key j -/
  | rk (j k : Nat)
  /-- a word of the IN buffer -/
  | inBuf
  /-- a word of the OUT buffer -/
  | outBuf
  | reserved
deriving DecidableEq, Repr

/-- The register map of R103 and the regions of R204, for a build and an aligned address. -/
def targetOf (c : Config) (a : Nat) : Target :=
  if a = 0x000 then .id
  else if a = 0x004 then .cmd
  else if a = 0x008 then .status
  else if a = 0x00C then .keylen
  else if a = 0x010 then .ivlen
  else if a = 0x014 then .blklen
  else if a = 0x018 then .msglen
  else if a = 0x01C then .outlen
  else if a = 0x020 then .gfa
  else if a = 0x024 then .gfb
  else if a = 0x028 then .gfp
  else if a = 0x02C then .bufsize
  else if a < 0x040 then .reserved
  else if a < 0x060 then .key ((a - 0x040) / 4)
  else if a < 0x070 then .iv ((a - 0x060) / 4)
  else if a < 0x080 then .chain ((a - 0x070) / 4)
  else if a < 0x090 then .blkin ((a - 0x080) / 4)
  else if a < 0x0A0 then .blkout ((a - 0x090) / 4)
  else if a < 0x100 then .reserved
  else if a < 0x1F0 then .rk ((a - 0x100) / 16) ((a - 0x100) % 16 / 4)
  else if inBuffer c a then .inBuf
  else if outBuffer c a then .outBuf
  else .reserved

/-- The constant of the ID register (R104). -/
def idWord : Word := 0x41455301

/-- a[1:0] != 0 (R202). -/
def misaligned (a : Addr) : Bool :=
  a.extractLsb' 0 2 != 0

/-- A byte of a buffer as a host read finds it: a free value where nothing has written it (R209, U2; entry 4). -/
def readBufByte (s : State) (a : Nat) : Byte :=
  (memRead s.mem a).getD (Config.freeByte s.freeCount a)

/-- The four bytes of a buffer word, big-endian (R201). -/
def readBufWord (s : State) (a : Nat) : Word :=
  wordOfBytes (readBufByte s a) (readBufByte s (a + 1)) (readBufByte s (a + 2)) (readBufByte s (a + 3))

/-- The value of an aligned word of the idle engine (R103 to R135). -/
def readTarget (s : State) (a : Nat) : Word :=
  match targetOf s.cfg a with
  | .id => idWord
  | .cmd => s.cmd
  | .status => statusWord s
  | .keylen => s.keylen.setWidth 32
  | .ivlen => s.ivlen.setWidth 32
  | .blklen => s.blklen.setWidth 32
  | .msglen => s.msglen.setWidth 32
  | .outlen => s.outlen.setWidth 32
  | .gfa => s.gfa.setWidth 32
  | .gfb => s.gfb.setWidth 32
  | .gfp => s.gfp.setWidth 32
  | .bufsize => BitVec.ofNat 32 s.cfg.msgbufBytes
  | .key k => keyWord s.key k
  | .iv k => blockWord s.iv k
  | .chain k => blockWord s.chain k
  | .blkin k => blockWord s.blkin k
  | .blkout k => blockWord s.blkout k
  | .rk j k => blockWord (s.rk.toList.getD j 0) k
  | .inBuf => readBufWord s a
  | .outBuf => readBufWord s a
  | .reserved => 0

/-- The data of an aligned read (R212): while BUSY = 1 only ID and STATUS return their values. -/
def readData (s : State) (a : Nat) : Word :=
  if s.busy then
    match targetOf s.cfg a with
    | .id => idWord
    | .status => statusWord s
    | _ => 0
  else readTarget s a

/-- The address is a word of IN or OUT. -/
def isBufferWord (c : Config) (a : Nat) : Bool :=
  inBuffer c a || outBuffer c a

/-- The aligned read draws free values: it reaches a buffer word with an unwritten byte (R209). -/
def drawsFree (s : State) (a : Nat) : Bool :=
  !s.busy && isBufferWord s.cfg a && (memReadBytes s.mem a 4).isNone

/-- `HostRead(a)` (R200, R202, R207): the response, and no change but the draw of free values. -/
def hostRead (a : Addr) (s : State) : State :=
  if misaligned a then { s with resp := some { busError := true, rdata := some 0 } }
  else
    { s with
      resp := some { busError := false, rdata := some (readData s a.toNat) }
      freeCount := if drawsFree s a.toNat then s.freeCount + 1 else s.freeCount }

/-- The four bytes of a word stored in a buffer, big-endian (R201, R205). -/
def writeBufWord (m : Memory) (a : Nat) (v : Word) : Memory :=
  memWriteBytes m a [wordByte v 0, wordByte v 1, wordByte v 2, wordByte v 3]

/-- An aligned write to the idle engine: RW registers store their field's bits (R133); CMD issues
(R401); KEY and KEYLEN clear KSVALID (R132); read-only and reserved addresses ignore it (R134, R135). -/
def writeTarget (a : Nat) (v : Word) (s : State) : State :=
  match targetOf s.cfg a with
  | .cmd => issue v s
  | .keylen => { s with keylen := v.extractLsb' 0 6, ksvalid := false }
  | .ivlen => { s with ivlen := v.extractLsb' 0 5 }
  | .blklen => { s with blklen := v.extractLsb' 0 5 }
  | .msglen => { s with msglen := v.extractLsb' 0 17 }
  | .gfa => { s with gfa := v.extractLsb' 0 8 }
  | .gfb => { s with gfb := v.extractLsb' 0 8 }
  | .key k => { s with key := setKeyWord s.key k v, ksvalid := false }
  | .iv k => { s with iv := setBlockWord s.iv k v }
  | .blkin k => { s with blkin := setBlockWord s.blkin k v }
  | .inBuf => { s with mem := writeBufWord s.mem a v }
  | .id => s
  | .status => s
  | .outlen => s
  | .gfp => s
  | .bufsize => s
  | .chain _ => s
  | .blkout _ => s
  | .rk _ _ => s
  | .outBuf => s
  | .reserved => s

/-- `HostWrite(a, v)` (R200, R202, R212): every aligned write is ignored while BUSY = 1. -/
def hostWrite (a : Addr) (v : Word) (s : State) : State :=
  if misaligned a then { s with resp := some { busError := true, rdata := none } }
  else
    let s' := if s.busy then s else writeTarget a.toNat v s
    { s' with resp := some { busError := false, rdata := none } }

/-- One access of the host (R200). -/
def hostAccess (x : Access) (s : State) : State :=
  match x with
  | .read a => hostRead a s
  | .write a v => hostWrite a v s

end Sys2Proof.Machine
end

