-- ==== Sys2Proof/Machine/Agents.lean ====
section
/-! DEFINITION. The turns of the agents: the engine's `execute`, the host's access, the platform's reset and power-on (R100, R402, R900). -/

namespace Sys2Proof.Machine

/-- `execute` of a command word (R402): decode it and run the command; an ILLEGAL word completes with
IllegalCommand (R306, R807). -/
def executeWord (w : Word) (s : State) : Host.Outcome State Fault Refusal :=
  match decode w with
  | .error _ => .next (complete .illegalCommand s)
  | .ok i => exec i s

/-- The engine's turn (R402): `execute` carries out `pending`; an idle engine changes nothing. -/
def engineTurn (s : State) : Host.Outcome State Fault Refusal :=
  match s.pending with
  | none => .next s
  | some w => executeWord w s

/-- One event (R100, R900, R901; entry 2). -/
def runEvent (e : Event) (s : State) : Host.Outcome State Fault Refusal :=
  match e with
  | .access x => .next (hostAccess x s)
  | .engine => engineTurn s
  | .reset => .next (assertReset s)
  | .powerOn => .next (assertPowerOn s)

/-- The event that comes next: the head of the agenda; with nothing on it, the engine's turn, so that a
busy engine eventually executes (R403, R911; entry 2). -/
def nextEvent (s : State) : Event :=
  s.agenda.headD .engine

/-- The state an event starts from: the event is off the agenda and the last response is gone. -/
def takeEvent (s : State) : State :=
  { s with agenda := s.agenda.tail, resp := none }

/-- A command word issued and the engine given the next turn: what `withFetchWord` stores (R401; entry 3). -/
def issueNow (w : Word) (s : State) : State :=
  { issue w s with agenda := .engine :: s.agenda }

end Sys2Proof.Machine
end

