-- ==== Sys2Proof/Machine/Step.lean ====
section
/-! DEFINITION. One step of the machine: the next event of the agenda (R100, R206, R402). -/

namespace Sys2Proof.Machine

/-- One step: one host access, or one whole command, or a reset or power-on (R100, R206). -/
def step (s : State) : Host.Outcome State Fault Refusal :=
  runEvent (nextEvent s) (takeEvent s)

/-- The host's question: `s` with the instruction of `nbits` bits `w` where the next step fetches it.
The engine has no program counter (R102); it fetches the word a host write to CMD issued (R401), so
the word is issued and the engine's turn comes next. -/
def State.withFetchWord (s : State) (nbits w : Nat) : State :=
  issueNow (BitVec.ofNat 32 (w % 2 ^ nbits)) s

end Sys2Proof.Machine
end

