-- ==== Sys2Proof/Safety.lean ====
section
/-! DEFINITION. What the claims speak of: the invariants the spec states, which commands a rule names, and when a step stops. -/

namespace Sys2Proof.Machine

/-- R131, R400: `pending` is present exactly while BUSY = 1 and equals CMD then; R401: an issue has
cleared DONE, ERR and ERRCODE. -/
abbrev LifecycleInv (s : State) : Prop :=
  (s.busy = true → s.pending = some s.cmd ∧ s.done = false ∧ s.err = false ∧ s.errcode = 0) ∧
  (s.busy = false → s.pending = none)

/-- R109, R111: ERR = 1 exactly when ERRCODE is nonzero, and ERRCODE is at most 7 (U8). -/
abbrev ErrorInv (s : State) : Prop :=
  (s.err = true ↔ s.errcode ≠ 0) ∧ s.errcode.toNat < 8

/-- R511: a valid cached schedule is the schedule of KEY and KEYLEN. -/
abbrev CacheInv (s : State) : Prop :=
  s.ksvalid = true →
    (s.keylen = 16 ∨ s.keylen = 24 ∨ s.keylen = 32) ∧
    s.ksNr.toNat = s.keylen.toNat / 4 + 6 ∧
    s.rk = (expand s.key s.keylen.toNat).rk

/-- The memory has its canonical form, and nothing is stored outside IN and OUT (R135, R204). -/
abbrev MemoryInv (s : State) : Prop :=
  memWf s.mem = true ∧ memInBuffers s.cfg s.mem = true

/-- The key check passes and `k` is the schedule the command uses (R508). -/
abbrev HasSchedule (s : State) (k : Schedule) : Prop :=
  (s.ksvalid = true ∧ k = { rk := s.rk, nr := s.ksNr }) ∨
  (s.ksvalid = false ∧ (s.keylen = 16 ∨ s.keylen = 24 ∨ s.keylen = 32) ∧ k = expand s.key s.keylen.toNat)

/-- The key check fails (R508). -/
abbrev NoSchedule (s : State) : Prop :=
  s.ksvalid = false ∧ s.keylen ≠ 16 ∧ s.keylen ≠ 24 ∧ s.keylen ≠ 32

/-- IN[0 .. MSGLEN-1] holds the message `m`, every byte of it written (R205, R209). -/
abbrev HoldsMessage (s : State) (m : List Byte) : Prop :=
  m.length = s.msglen.toNat ∧ ∀ i, i < m.length → memRead s.mem (inBase + i) = m[i]?

/-- No byte of IN[0 .. MSGLEN-1] is unwritten (R209). -/
abbrev InputWritten (s : State) : Prop :=
  ∀ i, i < s.msglen.toNat → memRead s.mem (inBase + i) ≠ none

/-- The 14 MSGENC words with an unsupported MODE (R304). -/
def badModeEnc : List Instr :=
  [.msgenc2, .msgenc3, .msgenc4, .msgenc5, .msgenc6, .msgenc7, .msgenc8, .msgenc9, .msgenc10, .msgenc11,
   .msgenc12, .msgenc13, .msgenc14, .msgenc15]

/-- The 14 MSGDEC words with an unsupported MODE (R304). -/
def badModeDec : List Instr :=
  [.msgdec2, .msgdec3, .msgdec4, .msgdec5, .msgdec6, .msgdec7, .msgdec8, .msgdec9, .msgdec10, .msgdec11,
   .msgdec12, .msgdec13, .msgdec14, .msgdec15]

/-- The four message commands (R700). -/
def messageCommands : List Instr :=
  [.msgencCbc, .msgdecCbc, .msgencCtr, .msgdecCtr]

/-- The commands that set OUTLEN when they fail: the message commands, BADMODE included (R811). -/
def messageWords : List Instr :=
  messageCommands ++ badModeEnc ++ badModeDec

/-- The commands that write GFP (R120). -/
def fieldCommands : List Instr :=
  [.gfmul, .gfinv, .sbox, .isbox]

/-- The commands that write BLKOUT (R126). -/
def blockCommands : List Instr :=
  [.encb, .decb]

/-- The commands that may write the round-key RAM and KSVALID (R508, R510). -/
def keyUsers : List Instr :=
  [.keyexp] ++ blockCommands ++ messageCommands

/-- A host read of an address is answered with a word and without BusError (R200); the response stands in
the model's own field `resp` (entry 6). -/
abbrev HostReads (s : State) (a : Addr) (w : Word) : Prop :=
  (hostAccess (.read a) s).resp = some { busError := false, rdata := some w }

/-- The step goes on. -/
abbrev GoesOn (s : State) : Prop :=
  ∃ t, step s = .next t

end Sys2Proof.Machine
end

