-- ==== Sys2Proof/Certificates/Slice0/Obligations.lean ====
section
/-! DEFINITION. The statements for the provers, from the numbered rules of spec/. -/

open Sys2Proof Sys2Proof.Machine

/-! ### Encoding -/

/-- R304: the words of eight commands, as the table has them, decode to those commands. -/
def Obligations.SampleWordsDecode : Prop :=
  decode 0x00000000 = .ok .nop ∧ decode 0x00000001 = .ok .keyexp ∧ decode 0x00000003 = .ok .decb ∧
  decode 0x00000007 = .ok .isbox ∧ decode 0x00000010 = .ok .msgencCbc ∧ decode 0x00000111 = .ok .msgdecCtr ∧
  decode 0x00000210 = .ok .msgenc2 ∧ decode 0x00000f11 = .ok .msgdec15

/-- R304, R305: over all 2^32 words and all 40 commands, the decoder reads a command from exactly the
word the encoder writes for it. -/
def Obligations.DecodeReadsExactlyTheEncodedWord : Prop :=
  ∀ (w : Word) (i : Instr), decode w = .ok i ↔ w = encode i

/-- R306, R807: the three grounds on which a word is illegal, that CMD accepts such a word and sets
BUSY, and that the command completes with code 6 and changes nothing but STATUS. -/
def Obligations.IllegalWordsCompleteWithIllegalCommand : Prop :=
  ∀ w : Word,
    ((∃ r, decode w = .error r) ↔
      (w.extractLsb' 12 20 ≠ 0 ∨
       ¬ (w.extractLsb' 0 8 ≤ 0x07 ∨ w.extractLsb' 0 8 = 0x10 ∨ w.extractLsb' 0 8 = 0x11) ∨
       (w.extractLsb' 0 8 ≤ 0x07 ∧ w.extractLsb' 8 4 ≠ 0))) ∧
    ∀ (r : Reject) (s : State), decode w = .error r →
      (s.busy = false → (hostWrite 0x004 w s).busy = true ∧ (hostWrite 0x004 w s).pending = some w ∧
        (hostWrite 0x004 w s).cmd = w) ∧
      (s.pending = some w → engineTurn s =
        .next { s with busy := false, done := true, err := true, errcode := 6, pending := none })

/-! ### Lifecycle -/

/-- Where the engine has the turn and the pending word decodes to `i`, a step is `exec i` (R402). Whose
turn it is, an empty agenda included, that the turn then leaves the agenda, and that the last port
response is cleared are the model's own (log entries 2 and 6). -/
def Obligations.StepRunsTheDecodedInstruction : Prop :=
  ∀ (s : State) (w : Word) (i : Instr), s.pending = some w → nextEvent s = .engine → decode w = .ok i →
    step s = exec i { s with agenda := s.agenda.tail, resp := none }

/-- R100, R200, R402, R900: what a step does for each event of the agenda. The agenda is the model's
own (log entry 2). -/
def Obligations.StepTakesTheNextEvent : Prop :=
  ∀ (s : State) (rest : List Event),
    (∀ x, s.agenda = .access x :: rest → step s = .next (hostAccess x { s with agenda := rest, resp := none })) ∧
    (s.agenda = .reset :: rest → step s = .next (assertReset { s with agenda := rest, resp := none })) ∧
    (s.agenda = .powerOn :: rest → step s = .next (assertPowerOn { s with agenda := rest, resp := none })) ∧
    (s.agenda = .engine :: rest → s.pending = none → step s = .next { s with agenda := rest, resp := none })

/-- R401: what a host write of any word to CMD does while the engine is idle, legal word or not, and
that it is ignored while the engine is busy. Nothing is said of the port's response, the field `resp`
of the model (log entry 6). -/
def Obligations.CmdWriteIssuesTheCommand : Prop :=
  ∀ (v : Word) (s : State),
    (s.busy = false → ∃ r, hostWrite 0x004 v s =
      { s with
        cmd := v, pending := some v, busy := true, done := false, err := false, errcode := 0, resp := r }) ∧
    (s.busy = true → ∃ r, hostWrite 0x004 v s = { s with resp := r })

/-- R404, with the codes of R801: what `complete(code)` writes, and nothing else. -/
def Obligations.CompleteWritesStatusAndPending : Prop :=
  (∀ (c : Code) (s : State), complete c s =
    { s with
      busy := false, done := true, err := decide (codeBits c ≠ 0), errcode := codeBits c, pending := none }) ∧
  codeBits .success = 0 ∧ codeBits .invalidKeyLength = 1 ∧ codeBits .invalidIVLength = 2 ∧
  codeBits .invalidBlockLength = 3 ∧ codeBits .invalidPadding = 4 ∧ codeBits .unsupportedMode = 5 ∧
  codeBits .illegalCommand = 6 ∧ codeBits .lengthOverflow = 7

/-- R402: whatever word is pending, legal or not, an `execute` step that goes on ends the command:
no step leaves the engine busy. -/
def Obligations.ExecuteLeavesTheEngineIdle : Prop :=
  ∀ (s t : State) (w : Word), s.pending = some w → engineTurn s = .next t →
    t.busy = false ∧ t.done = true ∧ t.pending = none ∧ t.cmd = s.cmd ∧ (t.err = true ↔ t.errcode ≠ 0)

/-- R131, R400, R109, R111: every step keeps "pending is present exactly while BUSY = 1 and equals CMD
then", and "ERR = 1 exactly when ERRCODE is nonzero, and codes 8 to 15 are never written". -/
def Obligations.StatusInvariantsKept : Prop :=
  (∀ s t : State, LifecycleInv s → step s = .next t → LifecycleInv t) ∧
  (∀ s t : State, ErrorInv s → step s = .next t → ErrorInv t)

/-- R511: every step keeps "a valid cached schedule is the schedule of the current KEY and KEYLEN". -/
def Obligations.CacheInvariantKept : Prop :=
  ∀ s t : State, CacheInv s → step s = .next t → CacheInv t

/-- Every step stores nothing outside IN and OUT (R135, R204, R208), and keeps the addresses of the memory's
list strictly rising, a canonical form that is the model's own choice (log entry 8). -/
def Obligations.MemoryInvariantKept : Prop :=
  ∀ s t : State, MemoryInv s → step s = .next t → MemoryInv t

/-- The state after power-on meets the four invariants (R900, R901); the canonical form of the memory is
the model's own choice (log entry 8). -/
def Obligations.ResetMeetsTheInvariants : Prop :=
  LifecycleInv State.reset ∧ ErrorInv State.reset ∧ CacheInv State.reset ∧ MemoryInv State.reset

/-- R403, R906: while a command waits, the host may make any finite number of accesses; they change
nothing of the engine, and the command then runs on the inputs as they were. The run is of the model's
agenda (log entry 2): `n` accesses, then the engine's turn. -/
def Obligations.PendingCommandRunsOnItsInputs : Prop :=
  ∀ (s : State) (w : Word) (xs : List Access) (rest : List Event),
    s.busy = true → s.pending = some w → s.agenda = xs.map Event.access ++ .engine :: rest →
    Sys2Proof.core.run (xs.length + 1) s = executeWord w { s with agenda := rest, resp := none }

/-- R209, R824: where every byte of IN[0 .. MSGLEN-1] has been written, no step stops, whatever the
agenda and the pending word are. -/
def Obligations.WrittenInputNeverStops : Prop :=
  ∀ s : State, InputWritten s → GoesOn s

/-! ### NOP and the field commands -/

/-- R408: the word and the effect of NOP, and that every other word with OP 0x00 is illegal. -/
def Obligations.NopResult : Prop :=
  decode 0x00000000 = .ok .nop ∧
  (∀ w : Word, w.extractLsb' 0 8 = 0x00 → w ≠ 0x00000000 → ∃ r, decode w = .error r) ∧
  ∀ s : State, exec .nop s =
    .next { s with busy := false, done := true, err := false, errcode := 0, pending := none }

/-- R443: the word and the effect of GFMUL, and its corner cases. -/
def Obligations.GfmulResult : Prop :=
  decode 0x00000004 = .ok .gfmul ∧
  (∀ s : State, exec .gfmul s =
    .next { s with gfp := gmul s.gfa s.gfb, busy := false, done := true, err := false, errcode := 0, pending := none }) ∧
  (∀ a : Byte, gmul a 0x00 = 0x00 ∧ gmul 0x00 a = 0x00 ∧ gmul a 0x01 = a ∧ gmul a 0x02 = xtime a) ∧
  (∀ a b : Byte, gmul a b = gmul b a) ∧
  gmul 0xff 0xff = 0x13 ∧ gmul 0x80 0x02 = 0x1b ∧ gmul 0x57 0x83 = 0xc1

/-- R444: the word and the effect of GFINV, and that the product with its result is 1. -/
def Obligations.GfinvResult : Prop :=
  decode 0x00000005 = .ok .gfinv ∧
  (∀ s : State, exec .gfinv s =
    .next { s with gfp := ginv s.gfa, busy := false, done := true, err := false, errcode := 0, pending := none }) ∧
  ginv 0x00 = 0x00 ∧ ginv 0x01 = 0x01 ∧ ginv 0x53 = 0xca ∧
  ∀ a : Byte, a ≠ 0x00 → gmul a (ginv a) = 0x01

/-- R445, R446: the words and the effects of SBOX and ISBOX, and their corner cases. -/
def Obligations.SboxAndIsboxResult : Prop :=
  decode 0x00000006 = .ok .sbox ∧ decode 0x00000007 = .ok .isbox ∧
  (∀ s : State, exec .sbox s =
    .next { s with gfp := sbox s.gfa, busy := false, done := true, err := false, errcode := 0, pending := none }) ∧
  (∀ s : State, exec .isbox s =
    .next { s with gfp := invSbox s.gfa, busy := false, done := true, err := false, errcode := 0, pending := none }) ∧
  sbox 0x00 = 0x63 ∧ sbox 0xff = 0x16 ∧ sbox 0x53 = 0xed ∧
  invSbox 0x63 = 0x00 ∧ invSbox 0x00 = 0x52 ∧ invSbox 0xed = 0x53 ∧ ∀ a : Byte, invSbox (sbox a) = a

/-- R430, R432, R433: `a (x) b` is the product of the polynomials of a and b over GF(2), reduced modulo
x^8 + x^4 + x^3 + x + 1; a byte's bit i is the coefficient of x^i. -/
def Obligations.GmulIsThePolynomialProduct : Prop :=
  ∀ a b : Byte,
    let poly (v : Byte) : Polynomial (ZMod 2) :=
      ∑ i ∈ Finset.range 8, if v.getLsbD i then (Polynomial.X : Polynomial (ZMod 2)) ^ i else 0
    let m : Polynomial (ZMod 2) :=
      Polynomial.X ^ 8 + Polynomial.X ^ 4 + Polynomial.X ^ 3 + Polynomial.X + 1
    poly (gmul a b) = (poly a * poly b) %ₘ m

/-- R433: `(x)` is commutative, associative and distributive over XOR. -/
def Obligations.GmulIsACommutativeRingProduct : Prop :=
  (∀ a b : Byte, gmul a b = gmul b a) ∧
  (∀ a b c : Byte, gmul (gmul a b) c = gmul a (gmul b c)) ∧
  (∀ a b c : Byte, gmul a (b ^^^ c) = gmul a b ^^^ gmul a c)

/-- R435: for a nonzero byte, `inv` gives the one byte whose product with it is 1. -/
def Obligations.InverseIsUnique : Prop :=
  ∀ a b : Byte, a ≠ 0x00 → (gmul a b = 0x01 ↔ b = ginv a)

/-- R437, R438: the ROMs are the affine transform of the inverse and its inverse, inverse permutations of
each other, with no fixed or complemented point. -/
def Obligations.SboxRomsAreTheAesTables : Prop :=
  ∀ x : Byte,
    sbox x = affine (ginv x) ∧ invSbox x = ginv (affineInv x) ∧
    invSbox (sbox x) = x ∧ sbox (invSbox x) = x ∧ sbox x ≠ x ∧ sbox x ≠ x ^^^ 0xff

/-! ### Key schedule -/

/-- R502, R503, R504: RotWord and SubWord byte by byte, RotWord as a rotation of the big-endian word, and
the round constants: they start at 1 and double, in byte 0 of their word. -/
def Obligations.RotWordSubWordAndRcon : Prop :=
  (∀ w : Word,
    rotWord w = w.rotateLeft 8 ∧
    (∀ i, i < 4 → wordByte (rotWord w) i = wordByte w ((i + 1) % 4)) ∧
    (∀ i, i < 4 → wordByte (subWord w) i = sbox (wordByte w i))) ∧
  wordByte (rcon 1) 0 = 0x01 ∧
  (∀ j, 1 ≤ j → wordByte (rcon (j + 1)) 0 = xtime (wordByte (rcon j) 0)) ∧
  (∀ j i, 1 ≤ i → wordByte (rcon j) i = 0x00)

/-- R505: the expansion of a key of n bytes, word by word and round key by round key. -/
def Obligations.ExpansionFollowsTheRecurrence : Prop :=
  ∀ (key : KeyReg) (n : Nat), n = 16 ∨ n = 24 ∨ n = 32 →
    let nk := n / 4
    let nr := nk + 6
    ∃ w : Nat → Word,
      (∀ i, i < nk → w i = keyWord key i) ∧
      (∀ i, nk ≤ i → i < 4 * (nr + 1) →
        w i = w (i - nk) ^^^
          (if i % nk = 0 then subWord (rotWord (w (i - 1))) ^^^ rcon (i / nk)
           else if nk = 8 ∧ i % nk = 4 then subWord (w (i - 1))
           else w (i - 1))) ∧
      (∀ j, j ≤ nr → (expand key n).rk.toList[j]? =
        some (w (4 * j) ++ w (4 * j + 1) ++ w (4 * j + 2) ++ w (4 * j + 3))) ∧
      (∀ j, nr < j → j < 15 → (expand key n).rk.toList[j]? = some 0) ∧
      (expand key n).nr.toNat = nr

/-- R122, R508: KEY bytes at index KEYLEN and above never enter the expansion. -/
def Obligations.KeyBytesPastKeylenAreIgnored : Prop :=
  ∀ (k₁ k₂ : KeyReg) (n : Nat), n = 16 ∨ n = 24 ∨ n = 32 →
    (∀ i, i < n → keyByte k₁ i = keyByte k₂ i) → expand k₁ n = expand k₂ n

/-- R510: the word of KEYEXP, its failure for every KEYLEN but 16, 24 and 32, its effect for those,
whether a schedule is cached or not, and that with a schedule cached the result is the one already
there (given the invariant of R511). -/
def Obligations.KeyexpResult : Prop :=
  decode 0x00000001 = .ok .keyexp ∧
  ∀ s : State,
    (s.keylen = 16 ∨ s.keylen = 24 ∨ s.keylen = 32 → exec .keyexp s =
      .next { s with
        rk := (expand s.key s.keylen.toNat).rk, ksNr := (expand s.key s.keylen.toNat).nr, ksvalid := true
        busy := false, done := true, err := false, errcode := 0, pending := none }) ∧
    (s.keylen ≠ 16 → s.keylen ≠ 24 → s.keylen ≠ 32 → exec .keyexp s =
      .next { s with busy := false, done := true, err := true, errcode := 1, pending := none }) ∧
    (CacheInv s → s.ksvalid = true → exec .keyexp s =
      .next { s with busy := false, done := true, err := false, errcode := 0, pending := none })

/-! ### Block cipher -/

/-- R602, R603, R604, R606, R607: AddRoundKey, SubBytes, ShiftRows and their inverses, byte by byte. -/
def Obligations.RoundStepsByBytes : Prop :=
  ∀ (s k : Block) (r c : Nat), r < 4 → c < 4 →
    stateByte (addRoundKey s k) r c = stateByte s r c ^^^ blockByte k (r + 4 * c) ∧
    stateByte (subBytes s) r c = sbox (stateByte s r c) ∧
    stateByte (shiftRows s) r c = stateByte s r ((c + r) % 4) ∧
    stateByte (invSubBytes s) r c = invSbox (stateByte s r c) ∧
    stateByte (invShiftRows (shiftRows s)) r c = stateByte s r c ∧
    stateByte (invShiftRows s) r ((c + r) % 4) = stateByte s r c ∧
    addRoundKey (addRoundKey s k) k = s ∧ invSubBytes (subBytes s) = s

/-- R605: the four equations of MixColumns, with 02(x)a = xtime(a) and 03(x)a = xtime(a) ^ a. -/
def Obligations.MixColumnsEquations : Prop :=
  ∀ (s : Block) (c : Nat), c < 4 →
    let a (r : Nat) : Byte := stateByte s r c
    stateByte (mixColumns s) 0 c = xtime (a 0) ^^^ (xtime (a 1) ^^^ a 1) ^^^ a 2 ^^^ a 3 ∧
    stateByte (mixColumns s) 1 c = a 0 ^^^ xtime (a 1) ^^^ (xtime (a 2) ^^^ a 2) ^^^ a 3 ∧
    stateByte (mixColumns s) 2 c = a 0 ^^^ a 1 ^^^ xtime (a 2) ^^^ (xtime (a 3) ^^^ a 3) ∧
    stateByte (mixColumns s) 3 c = (xtime (a 0) ^^^ a 0) ^^^ a 1 ^^^ a 2 ^^^ xtime (a 3)

/-- R608: the four equations of InvMixColumns, and that it undoes MixColumns. -/
def Obligations.InvMixColumnsUndoesMixColumns : Prop :=
  (∀ (s : Block) (c : Nat), c < 4 →
    let a (r : Nat) : Byte := stateByte s r c
    stateByte (invMixColumns s) 0 c =
      gmul 0x0e (a 0) ^^^ gmul 0x0b (a 1) ^^^ gmul 0x0d (a 2) ^^^ gmul 0x09 (a 3) ∧
    stateByte (invMixColumns s) 1 c =
      gmul 0x09 (a 0) ^^^ gmul 0x0e (a 1) ^^^ gmul 0x0b (a 2) ^^^ gmul 0x0d (a 3) ∧
    stateByte (invMixColumns s) 2 c =
      gmul 0x0d (a 0) ^^^ gmul 0x09 (a 1) ^^^ gmul 0x0e (a 2) ^^^ gmul 0x0b (a 3) ∧
    stateByte (invMixColumns s) 3 c =
      gmul 0x0b (a 0) ^^^ gmul 0x0d (a 1) ^^^ gmul 0x09 (a 2) ^^^ gmul 0x0e (a 3)) ∧
  ∀ s : Block, invMixColumns (mixColumns s) = s

/-- R613: for every schedule, and so for that of every valid key, InvCipher undoes Cipher and Cipher
undoes InvCipher: both are bijections on blocks. That the two are defined for a number of rounds other
than 10, 12 and 14 is the model's own choice (log entry 11). -/
def Obligations.CipherAndInvCipherAreInverse : Prop :=
  ∀ (k : Schedule) (b : Block), invCipher k (cipher k b) = b ∧ cipher k (invCipher k b) = b

/-- R613 at the port: after an ENCB that succeeds, BLKOUT copied into BLKIN and the schedule and BLKLEN
as they were, DECB succeeds and leaves BLKOUT equal to the original BLKIN. -/
def Obligations.EncbThenDecbRestoresTheBlock : Prop :=
  ∀ (s u : State) (k : Schedule), HasSchedule s k → s.blklen = 16 →
    ∃ t, exec .encb s = .next t ∧ t.errcode = 0 ∧
      (u.blkin = t.blkout → u.blklen = t.blklen → u.ksvalid = t.ksvalid → u.rk = t.rk → u.ksNr = t.ksNr →
        ∃ v, exec .decb u = .next v ∧ v.errcode = 0 ∧ v.blkout = s.blkin)

/-- R611, R612: the words of ENCB and DECB, their checks in order, and their effects. -/
def Obligations.EncbAndDecbResult : Prop :=
  decode 0x00000002 = .ok .encb ∧ decode 0x00000003 = .ok .decb ∧
  ∀ (i : Instr) (s : State) (k : Schedule), i = .encb ∨ i = .decb →
    let failed (c : BitVec 4) : State :=
      { s with busy := false, done := true, err := true, errcode := c, pending := none }
    (NoSchedule s → exec i s = .next (failed 1)) ∧
    (HasSchedule s k → s.blklen ≠ 16 → exec i s = .next (failed 3)) ∧
    (HasSchedule s k → s.blklen = 16 → exec i s =
      .next { s with
        blkout := if i = .encb then cipher k s.blkin else invCipher k s.blkin
        rk := k.rk, ksNr := k.nr, ksvalid := true
        busy := false, done := true, err := false, errcode := 0, pending := none })

/-! ### Chaining modes -/

/-- R702, R703: `pad` appends p bytes of value p, p = 16 - (len mod 16); exactly which strings `unpad`
rejects, what it leaves of the others, and that it undoes `pad`. -/
def Obligations.PadAndUnpad : Prop :=
  (∀ m : List Byte, ∃ p, p = 16 - m.length % 16 ∧ 1 ≤ p ∧ p ≤ 16 ∧
    pad m = m ++ List.replicate p (BitVec.ofNat 8 p) ∧ (pad m).length = 16 * (m.length / 16 + 1)) ∧
  (∀ m : List Byte, unpad (pad m) = some m) ∧
  ∀ (p : List Byte) (last : Byte), p.length % 16 = 0 → p.getLast? = some last →
    (unpad p = none ↔ last = 0 ∨ last.toNat > 16 ∨
      ∃ k, k < last.toNat ∧ p[p.length - last.toNat + k]? ≠ some last) ∧
    ∀ q, unpad p = some q → q = p.take (p.length - last.toNat)

/-- R704, R705: a string of 16n bytes is cut into its n blocks, byte by byte and in order; each ciphertext block encrypts the plaintext block XOR the ciphertext block before it, and
each plaintext block is the decrypted ciphertext block XOR the ciphertext block before it, the IV first;
for any block functions. -/
def Obligations.CbcBlockEquations : Prop :=
  (∀ (n : Nat) (q : List Byte), q.length = 16 * n →
    (blocksOf n q).length = n ∧ bytesOf (blocksOf n q) = q ∧
    ∀ i j, i < n → j < 16 → blockByte ((blocksOf n q).getD i 0) j = q.getD (16 * i + j) 0) ∧
  ∀ (f : Block → Block) (iv : Block) (qs : List Block),
    (cbcEncrypt f iv qs).length = qs.length ∧ (cbcDecrypt f iv qs).length = qs.length ∧
    ∀ i (h : i < qs.length),
      (cbcEncrypt f iv qs)[i]? =
        some (f (qs[i] ^^^ (if i = 0 then iv else (cbcEncrypt f iv qs).getD (i - 1) 0))) ∧
      (cbcDecrypt f iv qs)[i]? = some (f qs[i] ^^^ (if i = 0 then iv else qs.getD (i - 1) 0))

/-- R706, R707: the IV as an integer is its big-endian byte string, and counter block i is
(c0 + i) mod 2^128; byte j of the CTR output is byte j of the input XOR byte j mod 16 of the keystream
block of index j / 16; the output is as long as the input; for any block function. -/
def Obligations.CtrCounterAndOutput : Prop :=
  (∀ (iv : Block) (i : Nat),
    iv.toNat = ∑ j ∈ Finset.range 16, (blockByte iv j).toNat * 256 ^ (15 - j) ∧
    (ctrBlock iv i).toNat = (iv.toNat + i) % 2 ^ 128) ∧
  ∀ (e : Block → Block) (iv : Block) (xs : List Byte),
    (ctrXcrypt e iv xs).length = xs.length ∧
    ∀ j (h : j < xs.length),
      (ctrXcrypt e iv xs)[j]? = some (xs[j] ^^^ blockByte (e (ctrBlock iv (j / 16))) (j % 16))

/-- R719: within one message the counter blocks, and so the keystream blocks, are pairwise distinct. -/
def Obligations.KeystreamBlocksAreDistinct : Prop :=
  ∀ (k : Schedule) (iv : Block) (n i j : Nat), n ≤ 2 ^ 128 → i < n → j < n → i ≠ j →
    ctrBlock iv i ≠ ctrBlock iv j ∧ cipher k (ctrBlock iv i) ≠ cipher k (ctrBlock iv j)

/-- R708: the word of MSGENC.CBC, its checks in order with their codes, and its effect: OUT from 0x20000
on gets the ciphertext, OUTLEN its length, CHAIN the last ciphertext block. -/
def Obligations.MsgencCbcResult : Prop :=
  decode 0x00000010 = .ok .msgencCbc ∧
  ∀ (s : State) (k : Schedule) (m : List Byte),
    let failed (c : BitVec 4) : State :=
      { s with outlen := 0, busy := false, done := true, err := true, errcode := c, pending := none }
    let cs := cbcEncrypt (cipher k) s.iv (blocksOf (m.length / 16 + 1) (pad m))
    (NoSchedule s → exec .msgencCbc s = .next (failed 1)) ∧
    (HasSchedule s k → s.ivlen ≠ 16 → exec .msgencCbc s = .next (failed 2)) ∧
    (HasSchedule s k → s.ivlen = 16 → s.cfg.msgbufBytes < 16 * (s.msglen.toNat / 16 + 1) →
      exec .msgencCbc s = .next (failed 7)) ∧
    (HasSchedule s k → s.ivlen = 16 → 16 * (s.msglen.toNat / 16 + 1) ≤ s.cfg.msgbufBytes → HoldsMessage s m →
      exec .msgencCbc s =
        .next { s with
          mem := memWriteBytes s.mem 0x20000 (bytesOf cs)
          outlen := BitVec.ofNat 17 (bytesOf cs).length, chain := cs.getLastD s.iv
          rk := k.rk, ksNr := k.nr, ksvalid := true
          busy := false, done := true, err := false, errcode := 0, pending := none })

/-- R709: the word of MSGDEC.CBC, its checks in order with their codes, and its effect. -/
def Obligations.MsgdecCbcResult : Prop :=
  decode 0x00000011 = .ok .msgdecCbc ∧
  ∀ (s : State) (k : Schedule) (c : List Byte),
    let failed (c : BitVec 4) : State :=
      { s with outlen := 0, busy := false, done := true, err := true, errcode := c, pending := none }
    let cs := blocksOf (c.length / 16) c
    let p := bytesOf (cbcDecrypt (invCipher k) s.iv cs)
    (NoSchedule s → exec .msgdecCbc s = .next (failed 1)) ∧
    (HasSchedule s k → s.ivlen ≠ 16 → exec .msgdecCbc s = .next (failed 2)) ∧
    (HasSchedule s k → s.ivlen = 16 → s.cfg.msgbufBytes < s.msglen.toNat →
      exec .msgdecCbc s = .next (failed 7)) ∧
    (HasSchedule s k → s.ivlen = 16 → s.msglen.toNat ≤ s.cfg.msgbufBytes →
      (s.msglen.toNat = 0 ∨ s.msglen.toNat % 16 ≠ 0) → exec .msgdecCbc s = .next (failed 3)) ∧
    (HasSchedule s k → s.ivlen = 16 → s.msglen.toNat ≤ s.cfg.msgbufBytes →
      s.msglen.toNat ≠ 0 → s.msglen.toNat % 16 = 0 → HoldsMessage s c →
      (unpad p = none → exec .msgdecCbc s = .next (failed 4)) ∧
      ∀ m, unpad p = some m → exec .msgdecCbc s =
        .next { s with
          mem := memWriteBytes s.mem 0x20000 m, outlen := BitVec.ofNat 17 m.length, chain := cs.getLastD s.iv
          rk := k.rk, ksNr := k.nr, ksvalid := true
          busy := false, done := true, err := false, errcode := 0, pending := none })

/-- R710, R711: the words of the two CTR commands, their checks in order, and their effect, the same for
both: CHAIN gets the next counter. -/
def Obligations.CtrCommandsResult : Prop :=
  decode 0x00000110 = .ok .msgencCtr ∧ decode 0x00000111 = .ok .msgdecCtr ∧
  ∀ (i : Instr) (s : State) (k : Schedule) (m : List Byte), i = .msgencCtr ∨ i = .msgdecCtr →
    let failed (c : BitVec 4) : State :=
      { s with outlen := 0, busy := false, done := true, err := true, errcode := c, pending := none }
    (NoSchedule s → exec i s = .next (failed 1)) ∧
    (HasSchedule s k → s.ivlen ≠ 16 → exec i s = .next (failed 2)) ∧
    (HasSchedule s k → s.ivlen = 16 → s.cfg.msgbufBytes < s.msglen.toNat → exec i s = .next (failed 7)) ∧
    (HasSchedule s k → s.ivlen = 16 → s.msglen.toNat ≤ s.cfg.msgbufBytes → HoldsMessage s m →
      exec i s =
        .next { s with
          mem := memWriteBytes s.mem 0x20000 (ctrXcrypt (cipher k) s.iv m), outlen := s.msglen
          chain := BitVec.ofNat 128 (s.iv.toNat + (s.msglen.toNat + 15) / 16)
          rk := k.rk, ksNr := k.nr, ksvalid := true
          busy := false, done := true, err := false, errcode := 0, pending := none })

/-- R712: every word with OP 0x10 or 0x11, RSVD 0 and MODE 2 to 15 is one of the 28 BADMODE commands,
and each of those commands fails with UnsupportedMode in every state, key or no key. -/
def Obligations.BadModeResult : Prop :=
  (∀ mode : BitVec 4, 2 ≤ mode.toNat →
    (∃ i ∈ badModeEnc, decode ((0 : BitVec 20) ++ mode ++ (0x10 : BitVec 8)) = .ok i) ∧
    (∃ i ∈ badModeDec, decode ((0 : BitVec 20) ++ mode ++ (0x11 : BitVec 8)) = .ok i)) ∧
  ∀ (i : Instr) (s : State), i ∈ badModeEnc ++ badModeDec → exec i s =
    .next { s with outlen := 0, busy := false, done := true, err := true, errcode := 5, pending := none }

/-- R824, R209: a message command that passes its checks faults exactly where IN[0 .. MSGLEN-1] holds an
unwritten byte; nothing else makes any command stop. -/
def Obligations.OnlyUnwrittenInputStopsACommand : Prop :=
  (∀ (i : Instr) (s : State) (r : Fault), exec i s = .fault r →
    r = .uninitRead ∧ i ∈ messageCommands ∧ ∃ j, j < s.msglen.toNat ∧ memRead s.mem (inBase + j) = none) ∧
  (∀ (i : Instr) (s : State) (r : Refusal), exec i s ≠ .refused r) ∧
  (∀ (i : Instr) (s : State) (k : Schedule) (j : Nat), i ∈ messageCommands →
    HasSchedule s k → s.ivlen = 16 → s.msglen.toNat ≤ s.cfg.msgbufBytes →
    (i = .msgencCbc → 16 * (s.msglen.toNat / 16 + 1) ≤ s.cfg.msgbufBytes) →
    (i = .msgdecCbc → s.msglen.toNat % 16 = 0) →
    j < s.msglen.toNat → memRead s.mem (inBase + j) = none → exec i s = .fault .uninitRead)

/-! ### What commands leave unchanged -/

/-- R811: a command that completes with a nonzero code changes STATUS, and OUTLEN to 0 if it is a
message command or a BADMODE word, and nothing else: not KSVALID, RK, OUT, BLKOUT, GFP or CHAIN. -/
def Obligations.FailedCommandChangesOnlyStatus : Prop :=
  ∀ (i : Instr) (s t : State), exec i s = .next t → t.errcode ≠ 0 →
    t = { s with
      busy := false, done := true, err := true, errcode := t.errcode, pending := none
      outlen := if i ∈ messageWords then 0 else s.outlen }

/-- R208: a write of a byte string stores exactly those bytes, one an address from its start on, and
reading them back gives the string. -/
def Obligations.MemWriteStoresExactlyItsBytes : Prop :=
  ∀ (m : Memory) (a : Nat) (bs : List Byte),
    (∀ b, memRead (memWriteBytes m a bs) b =
      if a ≤ b ∧ b < a + bs.length then bs[b - a]? else memRead m b) ∧
    memReadBytes (memWriteBytes m a bs) a bs.length = some bs

/-- R128, R129, R208, R811: every byte of memory outside OUT[0 .. OUTLEN-1] reads as before, for each
message command; and for every other command, and every failure, every byte does. -/
def Obligations.CommandsStoreOnlyTheirOutput : Prop :=
  ∀ (i : Instr) (s t : State), exec i s = .next t →
    (∀ a, ¬ (0x20000 ≤ a ∧ a < 0x20000 + t.outlen.toNat) → memRead t.mem a = memRead s.mem a) ∧
    (i ∉ messageCommands ∨ t.errcode ≠ 0 → t.mem = s.mem)

/-- R105, R113 to R116, R118, R119, R122, R123, R125, R128: no command writes CMD, a length the host
declares, GFA, GFB, KEY, IV, BLKIN or a byte of IN; nor the model's own fields. -/
def Obligations.CommandsKeepTheirInputs : Prop :=
  ∀ (i : Instr) (s t : State), exec i s = .next t →
    t.cmd = s.cmd ∧ t.keylen = s.keylen ∧ t.ivlen = s.ivlen ∧ t.blklen = s.blklen ∧ t.msglen = s.msglen ∧
    t.gfa = s.gfa ∧ t.gfb = s.gfb ∧ t.key = s.key ∧ t.iv = s.iv ∧ t.blkin = s.blkin ∧
    (∀ a, inBuffer s.cfg a = true → memRead t.mem a = memRead s.mem a) ∧
    t.cfg = s.cfg ∧ t.agenda = s.agenda ∧ t.resp = s.resp ∧ t.freeCount = s.freeCount

/-- R110, R117, R120, R126, R127: GFP, BLKOUT, OUTLEN and the schedule cache are written by the commands
their rules name only, and no command clears KSVALID. -/
def Obligations.ResultRegistersHaveTheirWriters : Prop :=
  ∀ (i : Instr) (s t : State), exec i s = .next t →
    (i ∉ fieldCommands → t.gfp = s.gfp) ∧ (i ∉ blockCommands → t.blkout = s.blkout) ∧
    (i ∉ messageWords → t.outlen = s.outlen) ∧
    (i ∉ keyUsers → t.rk = s.rk ∧ t.ksNr = s.ksNr ∧ t.ksvalid = s.ksvalid) ∧
    (s.ksvalid = true → t.ksvalid = true)

/-- R716: what CHAIN holds after each command, and that no command reads it. -/
def Obligations.ChainHoldsTheFinalChainingValue : Prop :=
  ∀ (i : Instr) (s t : State), exec i s = .next t →
    (t.errcode ≠ 0 ∨ i ∉ messageCommands → t.chain = s.chain) ∧
    (t.errcode = 0 → i = .msgencCbc →
      memReadBytes t.mem (0x20000 + t.outlen.toNat - 16) 16 = some (blockBytes t.chain)) ∧
    (t.errcode = 0 → i = .msgdecCbc →
      memReadBytes s.mem (0x10000 + s.msglen.toNat - 16) 16 = some (blockBytes t.chain)) ∧
    (t.errcode = 0 → i = .msgencCtr ∨ i = .msgdecCtr →
      t.chain.toNat = (s.iv.toNat + (s.msglen.toNat + 15) / 16) % 2 ^ 128) ∧
    ∀ c : Block, ∃ d : Block, exec i { s with chain := c } = .next { t with chain := d }

/-- R718 for CBC: MSGENC.CBC of a message that fits, then MSGDEC.CBC of OUT[0 .. OUTLEN-1] copied into IN
with the same schedule, IV and build, succeeds and leaves the message in OUT and its length in OUTLEN. -/
def Obligations.CbcMessageRoundTrip : Prop :=
  ∀ (s u : State) (k : Schedule) (m : List Byte),
    HasSchedule s k → s.ivlen = 16 → HoldsMessage s m → 16 * (m.length / 16 + 1) ≤ s.cfg.msgbufBytes →
    ∃ t, exec .msgencCbc s = .next t ∧ t.errcode = 0 ∧
      (u.ksvalid = t.ksvalid → u.rk = t.rk → u.ksNr = t.ksNr → u.iv = t.iv → u.ivlen = t.ivlen →
        u.cfg = t.cfg → u.msglen = t.outlen →
        (∀ i, i < t.outlen.toNat → memRead u.mem (inBase + i) = memRead t.mem (outBase + i)) →
        ∃ v, exec .msgdecCbc u = .next v ∧ v.errcode = 0 ∧ v.outlen.toNat = m.length ∧
          ∀ i, i < m.length → memRead v.mem (outBase + i) = m[i]?)

/-- R718 for CTR, for every message that fits in the buffer. -/
def Obligations.CtrMessageRoundTrip : Prop :=
  ∀ (s u : State) (k : Schedule) (m : List Byte),
    HasSchedule s k → s.ivlen = 16 → HoldsMessage s m → m.length ≤ s.cfg.msgbufBytes →
    ∃ t, exec .msgencCtr s = .next t ∧ t.errcode = 0 ∧
      (u.ksvalid = t.ksvalid → u.rk = t.rk → u.ksNr = t.ksNr → u.iv = t.iv → u.ivlen = t.ivlen →
        u.cfg = t.cfg → u.msglen = t.outlen →
        (∀ i, i < t.outlen.toNat → memRead u.mem (inBase + i) = memRead t.mem (outBase + i)) →
        ∃ v, exec .msgdecCtr u = .next v ∧ v.errcode = 0 ∧ v.outlen.toNat = m.length ∧
          ∀ i, i < m.length → memRead v.mem (outBase + i) = m[i]?)

/-! ### Host port -/

/-- R202: a misaligned access ends with BusError, busy or not; it changes no state, and a read returns
0. The port's response stands in the field `resp` of the model (log entry 6). -/
def Obligations.MisalignedAccessIsBusError : Prop :=
  ∀ (a : Addr) (v : Word) (s : State), a.toNat % 4 ≠ 0 →
    hostAccess (.read a) s = { s with resp := some { busError := true, rdata := some 0 } } ∧
    ∃ d, hostAccess (.write a v) s = { s with resp := some { busError := true, rdata := d } }

/-- R212: the port while BUSY = 1. Its response stands in the field `resp` of the model (log entry 6). -/
def Obligations.BusyPortShowsOnlyIdAndStatus : Prop :=
  ∀ (a : Addr) (v : Word) (s : State), s.busy = true →
    let data : Word := if a = 0x000 then 0x41455301 else if a = 0x008 then statusWord s else 0
    (a.toNat % 4 = 0 →
      hostAccess (.read a) s = { s with resp := some { busError := false, rdata := some data } } ∧
      ∃ d, hostAccess (.write a v) s = { s with resp := some { busError := false, rdata := d } }) ∧
    (a.toNat % 4 ≠ 0 →
      hostAccess (.read a) s = { s with resp := some { busError := true, rdata := some 0 } } ∧
      ∃ d, hostAccess (.write a v) s = { s with resp := some { busError := true, rdata := d } })

/-- R207: no read changes the state; the response and the draw of free values are the model's own fields
(log entries 4 and 6). -/
def Obligations.ReadsChangeNoEngineState : Prop :=
  ∀ (a : Addr) (s : State), ∃ (r : PortResp) (n : Nat),
    hostAccess (.read a) s = { s with resp := some r, freeCount := n } ∧ r.busError = decide (a.toNat % 4 ≠ 0)

/-- R113 to R116, R118, R119, R133, R207: for each narrow register the host may write, an idle engine
reads its field zero-extended, a write stores the field's bits and changes nothing else (but for KSVALID,
cleared by KEYLEN), and what is written reads back with the reserved bits 0. The port's response stands in
the field `resp` of the model (log entry 6). -/
def Obligations.NarrowRegistersKeepTheirFieldBits : Prop :=
  (∀ s : State, s.busy = false →
    HostReads s 0x00C (s.keylen.setWidth 32) ∧ HostReads s 0x010 (s.ivlen.setWidth 32) ∧
    HostReads s 0x014 (s.blklen.setWidth 32) ∧ HostReads s 0x018 (s.msglen.setWidth 32) ∧
    HostReads s 0x020 (s.gfa.setWidth 32) ∧ HostReads s 0x024 (s.gfb.setWidth 32)) ∧
  (∀ (v : Word) (s : State), s.busy = false →
    (∃ r, hostAccess (.write 0x00C v) s = { s with keylen := v.extractLsb' 0 6, ksvalid := false, resp := r }) ∧
    (∃ r, hostAccess (.write 0x010 v) s = { s with ivlen := v.extractLsb' 0 5, resp := r }) ∧
    (∃ r, hostAccess (.write 0x014 v) s = { s with blklen := v.extractLsb' 0 5, resp := r }) ∧
    (∃ r, hostAccess (.write 0x018 v) s = { s with msglen := v.extractLsb' 0 17, resp := r }) ∧
    (∃ r, hostAccess (.write 0x020 v) s = { s with gfa := v.extractLsb' 0 8, resp := r }) ∧
    (∃ r, hostAccess (.write 0x024 v) s = { s with gfb := v.extractLsb' 0 8, resp := r })) ∧
  ∀ (v mask : Word) (a : Addr) (s : State), s.busy = false →
    (a, mask) ∈ ([(0x00C, 0x3F), (0x010, 0x1F), (0x014, 0x1F), (0x018, 0x1FFFF), (0x020, 0xFF), (0x024, 0xFF)] :
      List (Addr × Word)) →
    HostReads (hostAccess (.write a v) s) a (v &&& mask)

/-- R122, R123, R125, R128, R201, R205, R207: a write of a word to KEY, IV, BLKIN or IN of an idle engine
stores its four bytes big-endian at its address and changes no other byte of it, and nothing else (but for
KSVALID, cleared by KEY); KEY, IV and BLKIN read big-endian; what is written reads back. The port's
response stands in the field `resp` of the model (log entry 6). -/
def Obligations.DataWordsReadBackBigEndian : Prop :=
  ∀ (a : Addr) (v : Word) (s : State), s.busy = false → a.toNat % 4 = 0 →
    let n := a.toNat
    (0x040 ≤ n ∧ n < 0x060 →
      (∃ w, HostReads s a w ∧ ∀ i, i < 4 → wordByte w i = keyByte s.key (n - 0x040 + i)) ∧
      ∃ r key, hostAccess (.write a v) s = { s with key := key, ksvalid := false, resp := r } ∧
        ∀ i, i < 32 → keyByte key i =
          if n ≤ 0x040 + i ∧ 0x040 + i < n + 4 then wordByte v (0x040 + i - n) else keyByte s.key i) ∧
    (0x060 ≤ n ∧ n < 0x070 →
      (∃ w, HostReads s a w ∧ ∀ i, i < 4 → wordByte w i = blockByte s.iv (n - 0x060 + i)) ∧
      ∃ r iv, hostAccess (.write a v) s = { s with iv := iv, resp := r } ∧
        ∀ i, i < 16 → blockByte iv i =
          if n ≤ 0x060 + i ∧ 0x060 + i < n + 4 then wordByte v (0x060 + i - n) else blockByte s.iv i) ∧
    (0x080 ≤ n ∧ n < 0x090 →
      (∃ w, HostReads s a w ∧ ∀ i, i < 4 → wordByte w i = blockByte s.blkin (n - 0x080 + i)) ∧
      ∃ r blkin, hostAccess (.write a v) s = { s with blkin := blkin, resp := r } ∧
        ∀ i, i < 16 → blockByte blkin i =
          if n ≤ 0x080 + i ∧ 0x080 + i < n + 4 then wordByte v (0x080 + i - n) else blockByte s.blkin i) ∧
    (inBuffer s.cfg n = true →
      ∃ r mem, hostAccess (.write a v) s = { s with mem := mem, resp := r } ∧
        ∀ b, memRead mem b = if n ≤ b ∧ b < n + 4 then some (wordByte v (b - n)) else memRead s.mem b) ∧
    ((0x040 ≤ n ∧ n < 0x070) ∨ (0x080 ≤ n ∧ n < 0x090) ∨ inBuffer s.cfg n = true →
      HostReads (hostAccess (.write a v) s) a v)

/-- R132: an accepted write to KEY or KEYLEN clears KSVALID, whatever it stores; an accepted write to any
other address, and every write that is not accepted, leaves KSVALID as it was. -/
def Obligations.KeyWritesClearKsvalid : Prop :=
  ∀ (a : Addr) (v : Word) (s : State),
    (hostAccess (.write a v) s).ksvalid =
      (if s.busy = false ∧ a.toNat % 4 = 0 ∧ (a.toNat = 0x00C ∨ (0x040 ≤ a.toNat ∧ a.toNat ≤ 0x05C)) then false
       else s.ksvalid)

/-- R134, R135: an aligned write to a read-only or reserved address changes nothing and reports no error,
and a reserved address reads 0. R104, R117, R120, R121, R124, R126, R127, R201: what the idle engine reads
at ID, OUTLEN, GFP and BUFSIZE, and, big-endian, at CHAIN, BLKOUT and the RK window. The port's response
stands in the field `resp` of the model (log entry 6). -/
def Obligations.ReadOnlyAndReservedAddresses : Prop :=
  ∀ (a : Addr) (v : Word) (s : State), a.toNat % 4 = 0 →
    let n := a.toNat
    let size := s.cfg.msgbufBytes
    let reserved := (0x030 ≤ n ∧ n < 0x040) ∨ (0x0A0 ≤ n ∧ n < 0x100) ∨ (0x1F0 ≤ n ∧ n < 0x10000) ∨
      (0x10000 + size ≤ n ∧ n < 0x20000) ∨ 0x20000 + size ≤ n
    let readOnly := n = 0x000 ∨ n = 0x008 ∨ n = 0x01C ∨ n = 0x028 ∨ n = 0x02C ∨ (0x070 ≤ n ∧ n < 0x080) ∨
      (0x090 ≤ n ∧ n < 0x0A0) ∨ (0x100 ≤ n ∧ n < 0x1F0) ∨ (0x20000 ≤ n ∧ n < 0x20000 + size)
    (reserved ∨ readOnly →
      ∃ d, hostAccess (.write a v) s = { s with resp := some { busError := false, rdata := d } }) ∧
    (reserved → hostAccess (.read a) s = { s with resp := some { busError := false, rdata := some 0 } }) ∧
    (s.busy = false →
      (n = 0x000 → HostReads s a 0x41455301) ∧ (n = 0x01C → HostReads s a (s.outlen.setWidth 32)) ∧
      (n = 0x028 → HostReads s a (s.gfp.setWidth 32)) ∧ (n = 0x02C → HostReads s a (BitVec.ofNat 32 size)) ∧
      (0x070 ≤ n ∧ n < 0x080 →
        ∃ w, HostReads s a w ∧ ∀ i, i < 4 → wordByte w i = blockByte s.chain (n - 0x070 + i)) ∧
      (0x090 ≤ n ∧ n < 0x0A0 →
        ∃ w, HostReads s a w ∧ ∀ i, i < 4 → wordByte w i = blockByte s.blkout (n - 0x090 + i)) ∧
      (0x100 ≤ n ∧ n < 0x1F0 →
        ∃ w key, HostReads s a w ∧ s.rk.toList[(n - 0x100) / 16]? = some key ∧
          ∀ i, i < 4 → wordByte w i = blockByte key ((n - 0x100) % 16 + i)))

/-- R209, U2: a host read of a word of IN or OUT of an idle engine succeeds, written bytes of the word read
as written, and only a word with an unwritten byte draws a free value (log entry 4). -/
def Obligations.BufferReadsShowWrittenBytes : Prop :=
  ∀ (a : Addr) (s : State), s.busy = false → a.toNat % 4 = 0 →
    inBuffer s.cfg a.toNat = true ∨ outBuffer s.cfg a.toNat = true →
    ∃ w : Word, (hostAccess (.read a) s).resp = some { busError := false, rdata := some w } ∧
      (∀ i b, i < 4 → memRead s.mem (a.toNat + i) = some b → wordByte w i = b) ∧
      ((∀ i, i < 4 → memRead s.mem (a.toNat + i) ≠ none) → (hostAccess (.read a) s).freeCount = s.freeCount)

/-- R106, R112, R212: a host read of STATUS, busy or idle, returns a word with these fields, every other bit
0. R105: a host read of CMD of the idle engine returns the last word issued. The port's response stands in
the field `resp` of the model (log entry 6). -/
def Obligations.StatusWordFields : Prop :=
  ∀ s : State,
    HostReads s 0x008 (statusWord s) ∧
    (statusWord s).getLsbD 0 = s.busy ∧ (statusWord s).getLsbD 1 = s.done ∧ (statusWord s).getLsbD 2 = s.err ∧
    (statusWord s).getLsbD 3 = s.ksvalid ∧ (statusWord s).extractLsb' 4 4 = 0 ∧
    (statusWord s).extractLsb' 8 4 = s.errcode ∧ (statusWord s).extractLsb' 12 4 = 0 ∧
    (statusWord s).extractLsb' 16 4 = (if s.ksvalid then s.ksNr else 0) ∧ (statusWord s).extractLsb' 20 12 = 0 ∧
    (s.busy = false → HostReads s 0x004 s.cmd)

/-! ### Reset -/

/-- R900, R901, R902: reset leaves every register of the engine 0 and no command pending, busy or idle,
and leaves IN and OUT as they were; power-on does the same and leaves no byte of IN or OUT a value. The
agenda, the build, the response and the free values' counter are the model's own fields (log entry 10). -/
def Obligations.ResetAndPowerOn : Prop :=
  ∀ s : State,
    let cleared (mem : Memory) : State :=
      { cmd := 0, busy := false, done := false, err := false, ksvalid := false, errcode := 0,
        keylen := 0, ivlen := 0, blklen := 0, msglen := 0, outlen := 0, gfa := 0, gfb := 0, gfp := 0,
        key := 0, iv := 0, chain := 0, blkin := 0, blkout := 0, rk := Vector.replicate 15 0,
        mem := mem, pending := none, ksNr := 0,
        cfg := s.cfg, agenda := s.agenda, resp := none, freeCount := s.freeCount }
    assertReset s = cleared s.mem ∧ assertPowerOn s = cleared [] ∧
    ∀ a : Nat, memRead (assertPowerOn s).mem a = none

/-- R903: after a reset, STATUS reads 0, ID and BUFSIZE read their constants, every command that needs a
key fails with InvalidKeyLength, and GFMUL gives 0. -/
def Obligations.AfterResetReadsAndFailures : Prop :=
  ∀ s : State,
    (hostAccess (.read 0x008) (assertReset s)).resp = some { busError := false, rdata := some 0 } ∧
    (hostAccess (.read 0x000) (assertReset s)).resp = some { busError := false, rdata := some 0x41455301 } ∧
    (hostAccess (.read 0x02C) (assertReset s)).resp =
      some { busError := false, rdata := some (BitVec.ofNat 32 s.cfg.msgbufBytes) } ∧
    (∀ i, i ∈ keyUsers → ∃ t, exec i (assertReset s) = .next t ∧ t.errcode = 1) ∧
    ∃ t, exec .gfmul (assertReset s) = .next t ∧ t.gfp = 0 ∧ t.errcode = 0
end

