-- ==== Sys2Proof/Laws/Bytes.lean ====
section
/-! SUPPORT. Lemmas of the byte lanes: reading a byte or word of what was put together, and equality by bytes. -/

namespace Sys2Proof.Machine

theorem extract_append_low {n m : Nat} (x : BitVec n) (y : BitVec m) (k w : Nat) (h : k + w ≤ m) :
    (x ++ y).extractLsb' k w = y.extractLsb' k w := by
  ext j hj
  simp only [BitVec.getLsbD_append, BitVec.getElem_extractLsb']
  rw [if_pos (by omega)]

theorem extract_append_high {n m : Nat} (x : BitVec n) (y : BitVec m) (k w : Nat) (h : m ≤ k) :
    (x ++ y).extractLsb' k w = x.extractLsb' (k - m) w := by
  ext j hj
  simp only [BitVec.getLsbD_append, BitVec.getElem_extractLsb']
  rw [if_neg (by omega), Nat.sub_add_comm h]

@[simp] theorem blockByte_of_ge (b : Block) (i : Nat) (h : 16 ≤ i) : blockByte b i = 0 := by
  simp [blockByte, Nat.not_lt.mpr h]

/-- Bytes of a block put together from its bytes. -/
theorem blockByte_blockOfFn (f : Nat → Byte) (i : Nat) (h : i < 16) : blockByte (blockOfFn f) i = f i := by
  unfold blockByte blockOfFn
  rw [if_pos h]
  interval_cases i <;>
    (simp (disch := decide) only [extract_append_high, extract_append_low]; simp)

/-- Two blocks with the same 16 bytes are equal. -/
theorem block_ext (a b : Block) (h : ∀ i, i < 16 → blockByte a i = blockByte b i) : a = b := by
  apply BitVec.eq_of_getLsbD_eq
  intro j hj
  have h' := congrArg (fun v : Byte => v.getLsbD (j % 8)) (h (15 - j / 8) (by omega))
  have e : 15 - j / 8 < 16 := by omega
  have e2 : 8 * (15 - (15 - j / 8)) + j % 8 = j := by omega
  have e3 : j % 8 < 8 := by omega
  simpa [blockByte, e, e2, e3, BitVec.getLsbD_extractLsb'] using h'

@[simp] theorem blockOfFn_blockByte (b : Block) : blockOfFn (blockByte b) = b :=
  block_ext _ _ fun i h => blockByte_blockOfFn _ i h

theorem blockByte_xor (a b : Block) (i : Nat) : blockByte (a ^^^ b) i = blockByte a i ^^^ blockByte b i := by
  unfold blockByte
  split
  · ext j hj
    simp
  · simp

@[simp] theorem blockBytes_length (b : Block) : (blockBytes b).length = 16 := by
  simp [blockBytes]

theorem blockBytes_getElem (b : Block) (i : Nat) (h : i < (blockBytes b).length) :
    (blockBytes b)[i] = blockByte b i := by
  simp [blockBytes]

@[simp] theorem blockOfBytes_blockBytes (b : Block) : blockOfBytes (blockBytes b) = b := by
  refine block_ext _ _ fun i h => ?_
  rw [blockOfBytes, blockByte_blockOfFn _ i h]
  simp [blockBytes, List.getD_eq_getElem?_getD, h]

theorem blockBytes_blockOfBytes (bs : List Byte) (h : bs.length = 16) : blockBytes (blockOfBytes bs) = bs := by
  apply List.ext_getElem (by simp [h])
  intro i h1 h2
  rw [blockBytes_getElem, blockOfBytes, blockByte_blockOfFn _ i (by omega)]
  simp [h2]

/-- Byte of a state put together by rows and columns (R600). -/
theorem stateByte_blockOfState (f : Nat → Nat → Byte) (r c : Nat) (hr : r < 4) (hc : c < 4) :
    stateByte (blockOfState f) r c = f r c := by
  unfold stateByte blockOfState
  rw [blockByte_blockOfFn _ _ (by omega)]
  congr 1 <;> omega

/-- Two states with the same bytes at every row and column are equal (R600). -/
theorem state_ext (a b : Block) (h : ∀ r c, r < 4 → c < 4 → stateByte a r c = stateByte b r c) : a = b := by
  refine block_ext a b fun i hi => ?_
  have := h (i % 4) (i / 4) (by omega) (by omega)
  unfold stateByte at this
  rwa [show i % 4 + 4 * (i / 4) = i by omega] at this

theorem wordByte_wordOfBytes (b0 b1 b2 b3 : Byte) (i : Nat) (h : i < 4) :
    wordByte (wordOfBytes b0 b1 b2 b3) i = [b0, b1, b2, b3].getD i 0 := by
  unfold wordByte wordOfBytes
  rw [if_pos h]
  interval_cases i <;>
    (simp (disch := decide) only [extract_append_high, extract_append_low]; simp)

/-- Two words with the same four bytes are equal. -/
theorem word_ext (a b : Word) (h : ∀ i, i < 4 → wordByte a i = wordByte b i) : a = b := by
  apply BitVec.eq_of_getLsbD_eq
  intro j hj
  have h' := congrArg (fun v : Byte => v.getLsbD (j % 8)) (h (3 - j / 8) (by omega))
  have e : 3 - j / 8 < 4 := by omega
  have e2 : 8 * (3 - (3 - j / 8)) + j % 8 = j := by omega
  have e3 : j % 8 < 8 := by omega
  simpa [wordByte, e, e2, e3, BitVec.getLsbD_extractLsb'] using h'

@[simp] theorem wordOfBytes_wordByte (w : Word) :
    wordOfBytes (wordByte w 0) (wordByte w 1) (wordByte w 2) (wordByte w 3) = w := by
  refine word_ext _ _ fun i h => ?_
  rw [wordByte_wordOfBytes _ _ _ _ i h]
  interval_cases i <;> rfl

theorem blockWord_blockOfWords (w0 w1 w2 w3 : Word) (k : Nat) (h : k < 4) :
    blockWord (blockOfWords w0 w1 w2 w3) k = [w0, w1, w2, w3].getD k 0 := by
  unfold blockWord blockOfWords
  interval_cases k <;>
    (simp (disch := decide) only [extract_append_high, extract_append_low]; simp)

/-- A word of a block after one word is replaced. -/
theorem blockWord_setBlockWord (b : Block) (j k : Nat) (v : Word) (h : k < 4) :
    blockWord (setBlockWord b j v) k = if k = j then v else blockWord b k := by
  unfold setBlockWord
  rw [blockWord_blockOfWords _ _ _ _ k h]
  interval_cases k <;> rfl

/-- A word of KEY after one word is replaced. -/
theorem keyWord_setKeyWord (b : KeyReg) (j k : Nat) (v : Word) (h : k < 8) :
    keyWord (setKeyWord b j v) k = if k = j then v else keyWord b k := by
  unfold setKeyWord
  rw [show keyWord = fun key k => key.extractLsb' (32 * (7 - k)) 32 from rfl]
  interval_cases k <;>
    (simp (disch := decide) only [extract_append_high, extract_append_low]; simp)

/-- Byte `i` of word `k` of a block is its byte 4k + i (R123, R201). -/
theorem wordByte_blockWord (b : Block) (k i : Nat) (hk : k < 4) (hi : i < 4) :
    wordByte (blockWord b k) i = blockByte b (4 * k + i) := by
  unfold wordByte blockWord blockByte
  rw [if_pos hi, if_pos (by omega)]
  ext j hj
  simp only [BitVec.getElem_extractLsb', BitVec.getLsbD_extractLsb',
    show 8 * (3 - i) + j < 32 by omega, decide_true, Bool.true_and]
  congr 1
  omega

/-- Byte `i` of word `k` of KEY is its byte 4k + i (R122, R201). -/
theorem wordByte_keyWord (b : KeyReg) (k i : Nat) (hk : k < 8) (hi : i < 4) :
    wordByte (keyWord b k) i = keyByte b (4 * k + i) := by
  unfold wordByte keyWord keyByte
  rw [if_pos hi, if_pos (by omega)]
  ext j hj
  simp only [BitVec.getElem_extractLsb', BitVec.getLsbD_extractLsb',
    show 8 * (3 - i) + j < 32 by omega, decide_true, Bool.true_and]
  congr 1
  omega

/-- A byte of a block after one word is replaced: a byte of the new word, or as before. -/
theorem blockByte_setBlockWord (b : Block) (k i : Nat) (v : Word) (hi : i < 16) :
    blockByte (setBlockWord b k v) i = if i / 4 = k then wordByte v (i % 4) else blockByte b i := by
  have e := wordByte_blockWord (setBlockWord b k v) (i / 4) (i % 4) (by omega) (by omega)
  rw [show 4 * (i / 4) + i % 4 = i by omega, blockWord_setBlockWord _ _ _ _ (by omega)] at e
  rw [← e]
  split
  · rfl
  · rw [wordByte_blockWord _ _ _ (by omega) (by omega), show 4 * (i / 4) + i % 4 = i by omega]

/-- A byte of KEY after one word is replaced: a byte of the new word, or as before. -/
theorem keyByte_setKeyWord (b : KeyReg) (k i : Nat) (v : Word) (hi : i < 32) :
    keyByte (setKeyWord b k v) i = if i / 4 = k then wordByte v (i % 4) else keyByte b i := by
  have e := wordByte_keyWord (setKeyWord b k v) (i / 4) (i % 4) (by omega) (by omega)
  rw [show 4 * (i / 4) + i % 4 = i by omega, keyWord_setKeyWord _ _ _ _ (by omega)] at e
  rw [← e]
  split
  · rfl
  · rw [wordByte_keyWord _ _ _ (by omega) (by omega), show 4 * (i / 4) + i % 4 = i by omega]

end Sys2Proof.Machine
end

