-- ==== Sys2Proof/Laws/Chaining.lean ====
section
/-! SUPPORT. Lemmas of padding and of the chaining modes: how long their outputs are. -/

namespace Sys2Proof.Machine

theorem padLen_bounds (n : Nat) : 1 ≤ padLen n ∧ padLen n ≤ 16 ∧ n + padLen n = 16 * (n / 16 + 1) := by
  unfold padLen
  omega

/-- R702: a padded message is whole blocks, one more than the message has. -/
theorem pad_length (m : List Byte) : (pad m).length = 16 * (m.length / 16 + 1) := by
  have := padLen_bounds m.length
  simp only [pad, List.length_append, List.length_replicate]
  omega

@[simp] theorem blocksOf_length (n : Nat) (bs : List Byte) : (blocksOf n bs).length = n := by
  induction n generalizing bs with
  | zero => rfl
  | succ n ih => simp [blocksOf, ih]

@[simp] theorem cbcEncrypt_length (e : Block → Block) (st : Block) (ps : List Block) :
    (cbcEncrypt e st ps).length = ps.length := by
  induction ps generalizing st with
  | nil => rfl
  | cons p ps ih => simp [cbcEncrypt, ih]

@[simp] theorem cbcDecrypt_length (d : Block → Block) (st : Block) (cs : List Block) :
    (cbcDecrypt d st cs).length = cs.length := by
  induction cs generalizing st with
  | nil => rfl
  | cons c cs ih => simp [cbcDecrypt, ih]

@[simp] theorem bytesOf_length (bs : List Block) : (bytesOf bs).length = 16 * bs.length := by
  induction bs with
  | nil => rfl
  | cons b bs ih =>
    have : bytesOf (b :: bs) = blockBytes b ++ bytesOf bs := rfl
    rw [this, List.length_append, ih, blockBytes_length, List.length_cons]
    omega

theorem ctrLoop_length (e : Block → Block) (iv : Block) (n i : Nat) (xs : List Byte) (h : xs.length ≤ 16 * n) :
    (ctrLoop e iv n i xs).length = xs.length := by
  induction n generalizing i xs with
  | zero => simpa [ctrLoop, eq_comm] using h
  | succ n ih =>
    rw [ctrLoop, List.length_append, ih _ _ (by simp; omega)]
    simp
    omega

/-- R707: CTR gives as many bytes as it takes. -/
@[simp] theorem ctrXcrypt_length (e : Block → Block) (iv : Block) (xs : List Byte) :
    (ctrXcrypt e iv xs).length = xs.length :=
  ctrLoop_length e iv _ _ xs (by unfold blockCount; omega)

/-- R703: what `unpad` leaves is no longer than what it is given. -/
theorem unpad_length (p q : List Byte) (h : unpad p = some q) : q.length ≤ p.length := by
  unfold unpad at h
  simp only at h
  split at h
  · cases h
  · split at h
    · injection h with h
      rw [← h, List.length_take]
      omega
    · cases h

/-- R708: the ciphertext of MSGENC.CBC, in bytes. -/
theorem cbcCiphertext_length (k : Schedule) (iv : Block) (m : List Byte) :
    (bytesOf (cbcCiphertext k iv m)).length = paddedLen m.length := by
  simp [cbcCiphertext, paddedLen]

/-- R709: the decrypted bytes are no more than the ciphertext has. -/
theorem cbcPlaintext_length (k : Schedule) (iv : Block) (m : List Byte) :
    (cbcPlaintext k iv m).length ≤ m.length := by
  simp [cbcPlaintext]
  omega

end Sys2Proof.Machine
end

