-- ==== Sys2Proof/Laws/Memory.lean ====
section
/-! SUPPORT. Lemmas of the buffer memory: what a read finds after a write, and that every operation keeps the canonical form. -/

namespace Sys2Proof.Machine

@[simp] theorem memRead_nil (a : Nat) : memRead [] a = none := rfl

theorem memRead_cons (b a : Nat) (v : Byte) (m : Memory) :
    memRead ((b, v) :: m) a = if b = a then some v else memRead m a := rfl

/-- A read after a one-byte write: the byte written there, any other byte as before. -/
theorem memRead_memWrite (m : Memory) (a b : Nat) (v : Byte) :
    memRead (memWrite m a v) b = if b = a then some v else memRead m b := by
  induction m with
  | nil => simp only [memWrite, memRead_cons, memRead_nil, eq_comm]
  | cons c m ih =>
    obtain ⟨d, w⟩ := c
    unfold memWrite
    by_cases hb : b = a
    · subst hb
      split
      · simp only [memRead_cons, if_true]
      · split
        · simp only [memRead_cons, if_true]
        · rename_i h
          simp only [memRead_cons, ih, if_true]
          rw [if_neg (Ne.symm h)]
    · have hb' : a ≠ b := Ne.symm hb
      simp only [if_neg hb] at ih ⊢
      split
      · simp only [memRead_cons, if_neg hb']
      · split
        · rename_i h
          subst h
          simp only [memRead_cons, if_neg hb']
        · simp only [memRead_cons, ih]

@[simp] theorem memRead_memWrite_self (m : Memory) (a : Nat) (v : Byte) :
    memRead (memWrite m a v) a = some v := by
  simp [memRead_memWrite]

/-- Bytes below the first address of a multi-byte write read as before. -/
theorem memRead_memWriteBytes_below (bs : List Byte) (m : Memory) (a b : Nat) (h : b < a) :
    memRead (memWriteBytes m a bs) b = memRead m b := by
  induction bs generalizing m a with
  | nil => rfl
  | cons v vs ih =>
    rw [memWriteBytes, ih _ _ (by omega), memRead_memWrite, if_neg (by omega)]

/-- Bytes past the last address of a multi-byte write read as before. -/
theorem memRead_memWriteBytes_above (bs : List Byte) (m : Memory) (a b : Nat) (h : a + bs.length ≤ b) :
    memRead (memWriteBytes m a bs) b = memRead m b := by
  induction bs generalizing m a with
  | nil => rfl
  | cons v vs ih =>
    simp only [List.length_cons] at h
    rw [memWriteBytes, ih _ _ (by omega), memRead_memWrite, if_neg (by omega)]

theorem memWf_tail (c : Host.Cell) (m : Memory) (h : memWf (c :: m) = true) : memWf m = true := by
  cases m with
  | nil => rfl
  | cons d m =>
    obtain ⟨a, v⟩ := c; obtain ⟨b, w⟩ := d
    simp only [memWf, Bool.and_eq_true] at h
    exact h.2

/-- What the head address of a well-formed memory is below. -/
theorem memWf_cons_iff (a : Nat) (v : Byte) (m : Memory) :
    memWf ((a, v) :: m) = true ↔ memWf m = true ∧ ∀ c ∈ m.head?, a < c.1 := by
  cases m with
  | nil => simp [memWf]
  | cons d m => obtain ⟨b, w⟩ := d; simp [memWf, and_comm]

theorem memWrite_head (m : Memory) (a : Nat) (v : Byte) :
    ∀ c ∈ (memWrite m a v).head?, c.1 = a ∨ c ∈ m.head? := by
  cases m with
  | nil => simp [memWrite]
  | cons d m =>
    obtain ⟨b, w⟩ := d
    unfold memWrite
    split
    · simp
    · split <;> simp

/-- A one-byte write keeps the canonical form. -/
theorem memWf_memWrite (m : Memory) (a : Nat) (v : Byte) (h : memWf m = true) :
    memWf (memWrite m a v) = true := by
  induction m with
  | nil => rfl
  | cons d m ih =>
    obtain ⟨b, w⟩ := d
    unfold memWrite
    split
    · rename_i hab
      rw [memWf_cons_iff]
      exact ⟨h, by simpa using hab⟩
    · split
      · subst_vars
        rw [memWf_cons_iff] at h ⊢
        exact h
      · rw [memWf_cons_iff] at h ⊢
        refine ⟨ih h.1, fun c hc => ?_⟩
        rcases memWrite_head m a v c hc with e | e
        · omega
        · exact h.2 c e

/-- A multi-byte write keeps the canonical form. -/
theorem memWf_memWriteBytes (bs : List Byte) (m : Memory) (a : Nat) (h : memWf m = true) :
    memWf (memWriteBytes m a bs) = true := by
  induction bs generalizing m a with
  | nil => exact h
  | cons v vs ih => exact ih _ _ (memWf_memWrite m a v h)

/-- The memory of the state after power-on has the canonical form. -/
theorem memWf_reset : memWf State.reset.mem = true := rfl

/-- A cell of a memory after a one-byte write is the new one or an old one. -/
theorem mem_memWrite (m : Memory) (a : Nat) (v : Byte) (c : Host.Cell) (h : c ∈ memWrite m a v) :
    c = (a, v) ∨ c ∈ m := by
  induction m with
  | nil => simp_all [memWrite]
  | cons d m ih =>
    obtain ⟨b, w⟩ := d
    unfold memWrite at h
    split at h
    · simp_all
    · split at h
      · simp_all; tauto
      · simp only [List.mem_cons] at h ⊢
        rcases h with h | h
        · exact .inr (.inl h)
        · rcases ih h with h | h
          · exact .inl h
          · exact .inr (.inr h)

/-- When `MemRead` answers: every byte is written, and the answer is those bytes in order. -/
theorem memReadBytes_eq_some (n : Nat) (m : Memory) (a : Nat) (bs : List Byte)
    (h : memReadBytes m a n = some bs) :
    bs.length = n ∧ ∀ i, i < n → memRead m (a + i) = bs[i]? := by
  induction n generalizing a bs with
  | zero => simp [memReadBytes] at h; subst h; simp
  | succ n ih =>
    unfold memReadBytes at h
    split at h
    · rename_i v vs h1 h2
      obtain ⟨hl, hr⟩ := ih _ _ h2
      simp only [Option.some.injEq] at h
      subst h
      refine ⟨by simp [hl], fun i hi => ?_⟩
      cases i with
      | zero => simpa using h1
      | succ i =>
        have := hr i (by omega)
        rw [show a + 1 + i = a + (i + 1) by omega] at this
        simpa using this
    · cases h

/-- `MemRead` answers a string whose bytes stand in memory, in order. -/
theorem memReadBytes_of_bytes (bs : List Byte) (m : Memory) (a : Nat)
    (h : ∀ i, i < bs.length → memRead m (a + i) = bs[i]?) :
    memReadBytes m a bs.length = some bs := by
  induction bs generalizing a with
  | nil => rfl
  | cons v vs ih =>
    have h0 := h 0 (by simp)
    have h1 := ih (a + 1) fun i hi => by
      have := h (i + 1) (by simpa using hi)
      rw [show a + 1 + i = a + (i + 1) by omega]
      simpa using this
    simp only [Nat.add_zero, List.getElem?_cons_zero] at h0
    simp [memReadBytes, h0, h1]

/-- When `MemRead` does not answer, some byte is unwritten. -/
theorem memReadBytes_eq_none (n : Nat) (m : Memory) (a : Nat) (h : memReadBytes m a n = none) :
    ∃ i, i < n ∧ memRead m (a + i) = none := by
  induction n generalizing a with
  | zero => simp [memReadBytes] at h
  | succ n ih =>
    by_cases h0 : memRead m a = none
    · exact ⟨0, by omega, by simpa using h0⟩
    · obtain ⟨v, hv⟩ := Option.ne_none_iff_exists'.mp h0
      cases h1 : memReadBytes m (a + 1) n with
      | some vs => simp [memReadBytes, hv, h1] at h
      | none =>
        obtain ⟨i, hi, hr⟩ := ih _ h1
        exact ⟨i + 1, by omega, by rw [show a + (i + 1) = a + 1 + i by omega]; exact hr⟩

end Sys2Proof.Machine
end

