-- ==== Sys2Proof/Laws/State.lean ====
section
/-! SUPPORT. One lemma for each field of State and each shared update, so that no proof unfolds a record update. -/

namespace Sys2Proof.Machine

@[simp] theorem complete_cmd (c : Code) (s : State) : (complete c s).cmd = s.cmd := rfl
@[simp] theorem complete_busy (c : Code) (s : State) : (complete c s).busy = false := rfl
@[simp] theorem complete_done (c : Code) (s : State) : (complete c s).done = true := rfl
@[simp] theorem complete_err (c : Code) (s : State) : (complete c s).err = (codeBits c != 0) := rfl
@[simp] theorem complete_ksvalid (c : Code) (s : State) : (complete c s).ksvalid = s.ksvalid := rfl
@[simp] theorem complete_errcode (c : Code) (s : State) : (complete c s).errcode = codeBits c := rfl
@[simp] theorem complete_keylen (c : Code) (s : State) : (complete c s).keylen = s.keylen := rfl
@[simp] theorem complete_ivlen (c : Code) (s : State) : (complete c s).ivlen = s.ivlen := rfl
@[simp] theorem complete_blklen (c : Code) (s : State) : (complete c s).blklen = s.blklen := rfl
@[simp] theorem complete_msglen (c : Code) (s : State) : (complete c s).msglen = s.msglen := rfl
@[simp] theorem complete_outlen (c : Code) (s : State) : (complete c s).outlen = s.outlen := rfl
@[simp] theorem complete_gfa (c : Code) (s : State) : (complete c s).gfa = s.gfa := rfl
@[simp] theorem complete_gfb (c : Code) (s : State) : (complete c s).gfb = s.gfb := rfl
@[simp] theorem complete_gfp (c : Code) (s : State) : (complete c s).gfp = s.gfp := rfl
@[simp] theorem complete_key (c : Code) (s : State) : (complete c s).key = s.key := rfl
@[simp] theorem complete_iv (c : Code) (s : State) : (complete c s).iv = s.iv := rfl
@[simp] theorem complete_chain (c : Code) (s : State) : (complete c s).chain = s.chain := rfl
@[simp] theorem complete_blkin (c : Code) (s : State) : (complete c s).blkin = s.blkin := rfl
@[simp] theorem complete_blkout (c : Code) (s : State) : (complete c s).blkout = s.blkout := rfl
@[simp] theorem complete_rk (c : Code) (s : State) : (complete c s).rk = s.rk := rfl
@[simp] theorem complete_mem (c : Code) (s : State) : (complete c s).mem = s.mem := rfl
@[simp] theorem complete_pending (c : Code) (s : State) : (complete c s).pending = none := rfl
@[simp] theorem complete_ksNr (c : Code) (s : State) : (complete c s).ksNr = s.ksNr := rfl
@[simp] theorem complete_cfg (c : Code) (s : State) : (complete c s).cfg = s.cfg := rfl
@[simp] theorem complete_agenda (c : Code) (s : State) : (complete c s).agenda = s.agenda := rfl
@[simp] theorem complete_resp (c : Code) (s : State) : (complete c s).resp = s.resp := rfl
@[simp] theorem complete_freeCount (c : Code) (s : State) : (complete c s).freeCount = s.freeCount := rfl

@[simp] theorem failMsg_cmd (c : Code) (s : State) : (failMsg c s).cmd = s.cmd := rfl
@[simp] theorem failMsg_busy (c : Code) (s : State) : (failMsg c s).busy = false := rfl
@[simp] theorem failMsg_done (c : Code) (s : State) : (failMsg c s).done = true := rfl
@[simp] theorem failMsg_err (c : Code) (s : State) : (failMsg c s).err = (codeBits c != 0) := rfl
@[simp] theorem failMsg_ksvalid (c : Code) (s : State) : (failMsg c s).ksvalid = s.ksvalid := rfl
@[simp] theorem failMsg_errcode (c : Code) (s : State) : (failMsg c s).errcode = codeBits c := rfl
@[simp] theorem failMsg_keylen (c : Code) (s : State) : (failMsg c s).keylen = s.keylen := rfl
@[simp] theorem failMsg_ivlen (c : Code) (s : State) : (failMsg c s).ivlen = s.ivlen := rfl
@[simp] theorem failMsg_blklen (c : Code) (s : State) : (failMsg c s).blklen = s.blklen := rfl
@[simp] theorem failMsg_msglen (c : Code) (s : State) : (failMsg c s).msglen = s.msglen := rfl
@[simp] theorem failMsg_outlen (c : Code) (s : State) : (failMsg c s).outlen = 0 := rfl
@[simp] theorem failMsg_gfa (c : Code) (s : State) : (failMsg c s).gfa = s.gfa := rfl
@[simp] theorem failMsg_gfb (c : Code) (s : State) : (failMsg c s).gfb = s.gfb := rfl
@[simp] theorem failMsg_gfp (c : Code) (s : State) : (failMsg c s).gfp = s.gfp := rfl
@[simp] theorem failMsg_key (c : Code) (s : State) : (failMsg c s).key = s.key := rfl
@[simp] theorem failMsg_iv (c : Code) (s : State) : (failMsg c s).iv = s.iv := rfl
@[simp] theorem failMsg_chain (c : Code) (s : State) : (failMsg c s).chain = s.chain := rfl
@[simp] theorem failMsg_blkin (c : Code) (s : State) : (failMsg c s).blkin = s.blkin := rfl
@[simp] theorem failMsg_blkout (c : Code) (s : State) : (failMsg c s).blkout = s.blkout := rfl
@[simp] theorem failMsg_rk (c : Code) (s : State) : (failMsg c s).rk = s.rk := rfl
@[simp] theorem failMsg_mem (c : Code) (s : State) : (failMsg c s).mem = s.mem := rfl
@[simp] theorem failMsg_pending (c : Code) (s : State) : (failMsg c s).pending = none := rfl
@[simp] theorem failMsg_ksNr (c : Code) (s : State) : (failMsg c s).ksNr = s.ksNr := rfl
@[simp] theorem failMsg_cfg (c : Code) (s : State) : (failMsg c s).cfg = s.cfg := rfl
@[simp] theorem failMsg_agenda (c : Code) (s : State) : (failMsg c s).agenda = s.agenda := rfl
@[simp] theorem failMsg_resp (c : Code) (s : State) : (failMsg c s).resp = s.resp := rfl
@[simp] theorem failMsg_freeCount (c : Code) (s : State) : (failMsg c s).freeCount = s.freeCount := rfl

@[simp] theorem commitSchedule_cmd (k : Schedule) (s : State) : (commitSchedule k s).cmd = s.cmd := rfl
@[simp] theorem commitSchedule_busy (k : Schedule) (s : State) : (commitSchedule k s).busy = s.busy := rfl
@[simp] theorem commitSchedule_done (k : Schedule) (s : State) : (commitSchedule k s).done = s.done := rfl
@[simp] theorem commitSchedule_err (k : Schedule) (s : State) : (commitSchedule k s).err = s.err := rfl
@[simp] theorem commitSchedule_ksvalid (k : Schedule) (s : State) : (commitSchedule k s).ksvalid = true := rfl
@[simp] theorem commitSchedule_errcode (k : Schedule) (s : State) : (commitSchedule k s).errcode = s.errcode := rfl
@[simp] theorem commitSchedule_keylen (k : Schedule) (s : State) : (commitSchedule k s).keylen = s.keylen := rfl
@[simp] theorem commitSchedule_ivlen (k : Schedule) (s : State) : (commitSchedule k s).ivlen = s.ivlen := rfl
@[simp] theorem commitSchedule_blklen (k : Schedule) (s : State) : (commitSchedule k s).blklen = s.blklen := rfl
@[simp] theorem commitSchedule_msglen (k : Schedule) (s : State) : (commitSchedule k s).msglen = s.msglen := rfl
@[simp] theorem commitSchedule_outlen (k : Schedule) (s : State) : (commitSchedule k s).outlen = s.outlen := rfl
@[simp] theorem commitSchedule_gfa (k : Schedule) (s : State) : (commitSchedule k s).gfa = s.gfa := rfl
@[simp] theorem commitSchedule_gfb (k : Schedule) (s : State) : (commitSchedule k s).gfb = s.gfb := rfl
@[simp] theorem commitSchedule_gfp (k : Schedule) (s : State) : (commitSchedule k s).gfp = s.gfp := rfl
@[simp] theorem commitSchedule_key (k : Schedule) (s : State) : (commitSchedule k s).key = s.key := rfl
@[simp] theorem commitSchedule_iv (k : Schedule) (s : State) : (commitSchedule k s).iv = s.iv := rfl
@[simp] theorem commitSchedule_chain (k : Schedule) (s : State) : (commitSchedule k s).chain = s.chain := rfl
@[simp] theorem commitSchedule_blkin (k : Schedule) (s : State) : (commitSchedule k s).blkin = s.blkin := rfl
@[simp] theorem commitSchedule_blkout (k : Schedule) (s : State) : (commitSchedule k s).blkout = s.blkout := rfl
@[simp] theorem commitSchedule_rk (k : Schedule) (s : State) : (commitSchedule k s).rk = k.rk := rfl
@[simp] theorem commitSchedule_mem (k : Schedule) (s : State) : (commitSchedule k s).mem = s.mem := rfl
@[simp] theorem commitSchedule_pending (k : Schedule) (s : State) : (commitSchedule k s).pending = s.pending := rfl
@[simp] theorem commitSchedule_ksNr (k : Schedule) (s : State) : (commitSchedule k s).ksNr = k.nr := rfl
@[simp] theorem commitSchedule_cfg (k : Schedule) (s : State) : (commitSchedule k s).cfg = s.cfg := rfl
@[simp] theorem commitSchedule_agenda (k : Schedule) (s : State) : (commitSchedule k s).agenda = s.agenda := rfl
@[simp] theorem commitSchedule_resp (k : Schedule) (s : State) : (commitSchedule k s).resp = s.resp := rfl
@[simp] theorem commitSchedule_freeCount (k : Schedule) (s : State) : (commitSchedule k s).freeCount = s.freeCount := rfl

@[simp] theorem finishMessage_cmd (k : Schedule) (o : List Byte) (c : Block) (s : State) : (finishMessage k o c s).cmd = s.cmd := rfl
@[simp] theorem finishMessage_busy (k : Schedule) (o : List Byte) (c : Block) (s : State) : (finishMessage k o c s).busy = false := rfl
@[simp] theorem finishMessage_done (k : Schedule) (o : List Byte) (c : Block) (s : State) : (finishMessage k o c s).done = true := rfl
@[simp] theorem finishMessage_err (k : Schedule) (o : List Byte) (c : Block) (s : State) : (finishMessage k o c s).err = false := rfl
@[simp] theorem finishMessage_ksvalid (k : Schedule) (o : List Byte) (c : Block) (s : State) : (finishMessage k o c s).ksvalid = true := rfl
@[simp] theorem finishMessage_errcode (k : Schedule) (o : List Byte) (c : Block) (s : State) : (finishMessage k o c s).errcode = 0 := rfl
@[simp] theorem finishMessage_keylen (k : Schedule) (o : List Byte) (c : Block) (s : State) : (finishMessage k o c s).keylen = s.keylen := rfl
@[simp] theorem finishMessage_ivlen (k : Schedule) (o : List Byte) (c : Block) (s : State) : (finishMessage k o c s).ivlen = s.ivlen := rfl
@[simp] theorem finishMessage_blklen (k : Schedule) (o : List Byte) (c : Block) (s : State) : (finishMessage k o c s).blklen = s.blklen := rfl
@[simp] theorem finishMessage_msglen (k : Schedule) (o : List Byte) (c : Block) (s : State) : (finishMessage k o c s).msglen = s.msglen := rfl
@[simp] theorem finishMessage_outlen (k : Schedule) (o : List Byte) (c : Block) (s : State) : (finishMessage k o c s).outlen = BitVec.ofNat 17 o.length := rfl
@[simp] theorem finishMessage_gfa (k : Schedule) (o : List Byte) (c : Block) (s : State) : (finishMessage k o c s).gfa = s.gfa := rfl
@[simp] theorem finishMessage_gfb (k : Schedule) (o : List Byte) (c : Block) (s : State) : (finishMessage k o c s).gfb = s.gfb := rfl
@[simp] theorem finishMessage_gfp (k : Schedule) (o : List Byte) (c : Block) (s : State) : (finishMessage k o c s).gfp = s.gfp := rfl
@[simp] theorem finishMessage_key (k : Schedule) (o : List Byte) (c : Block) (s : State) : (finishMessage k o c s).key = s.key := rfl
@[simp] theorem finishMessage_iv (k : Schedule) (o : List Byte) (c : Block) (s : State) : (finishMessage k o c s).iv = s.iv := rfl
@[simp] theorem finishMessage_chain (k : Schedule) (o : List Byte) (c : Block) (s : State) : (finishMessage k o c s).chain = c := rfl
@[simp] theorem finishMessage_blkin (k : Schedule) (o : List Byte) (c : Block) (s : State) : (finishMessage k o c s).blkin = s.blkin := rfl
@[simp] theorem finishMessage_blkout (k : Schedule) (o : List Byte) (c : Block) (s : State) : (finishMessage k o c s).blkout = s.blkout := rfl
@[simp] theorem finishMessage_rk (k : Schedule) (o : List Byte) (c : Block) (s : State) : (finishMessage k o c s).rk = k.rk := rfl
@[simp] theorem finishMessage_mem (k : Schedule) (o : List Byte) (c : Block) (s : State) : (finishMessage k o c s).mem = memWriteBytes s.mem outBase o := rfl
@[simp] theorem finishMessage_pending (k : Schedule) (o : List Byte) (c : Block) (s : State) : (finishMessage k o c s).pending = none := rfl
@[simp] theorem finishMessage_ksNr (k : Schedule) (o : List Byte) (c : Block) (s : State) : (finishMessage k o c s).ksNr = k.nr := rfl
@[simp] theorem finishMessage_cfg (k : Schedule) (o : List Byte) (c : Block) (s : State) : (finishMessage k o c s).cfg = s.cfg := rfl
@[simp] theorem finishMessage_agenda (k : Schedule) (o : List Byte) (c : Block) (s : State) : (finishMessage k o c s).agenda = s.agenda := rfl
@[simp] theorem finishMessage_resp (k : Schedule) (o : List Byte) (c : Block) (s : State) : (finishMessage k o c s).resp = s.resp := rfl
@[simp] theorem finishMessage_freeCount (k : Schedule) (o : List Byte) (c : Block) (s : State) : (finishMessage k o c s).freeCount = s.freeCount := rfl

@[simp] theorem finishBlock_cmd (k : Schedule) (b : Block) (s : State) : (finishBlock k b s).cmd = s.cmd := rfl
@[simp] theorem finishBlock_busy (k : Schedule) (b : Block) (s : State) : (finishBlock k b s).busy = false := rfl
@[simp] theorem finishBlock_done (k : Schedule) (b : Block) (s : State) : (finishBlock k b s).done = true := rfl
@[simp] theorem finishBlock_err (k : Schedule) (b : Block) (s : State) : (finishBlock k b s).err = false := rfl
@[simp] theorem finishBlock_ksvalid (k : Schedule) (b : Block) (s : State) : (finishBlock k b s).ksvalid = true := rfl
@[simp] theorem finishBlock_errcode (k : Schedule) (b : Block) (s : State) : (finishBlock k b s).errcode = 0 := rfl
@[simp] theorem finishBlock_keylen (k : Schedule) (b : Block) (s : State) : (finishBlock k b s).keylen = s.keylen := rfl
@[simp] theorem finishBlock_ivlen (k : Schedule) (b : Block) (s : State) : (finishBlock k b s).ivlen = s.ivlen := rfl
@[simp] theorem finishBlock_blklen (k : Schedule) (b : Block) (s : State) : (finishBlock k b s).blklen = s.blklen := rfl
@[simp] theorem finishBlock_msglen (k : Schedule) (b : Block) (s : State) : (finishBlock k b s).msglen = s.msglen := rfl
@[simp] theorem finishBlock_outlen (k : Schedule) (b : Block) (s : State) : (finishBlock k b s).outlen = s.outlen := rfl
@[simp] theorem finishBlock_gfa (k : Schedule) (b : Block) (s : State) : (finishBlock k b s).gfa = s.gfa := rfl
@[simp] theorem finishBlock_gfb (k : Schedule) (b : Block) (s : State) : (finishBlock k b s).gfb = s.gfb := rfl
@[simp] theorem finishBlock_gfp (k : Schedule) (b : Block) (s : State) : (finishBlock k b s).gfp = s.gfp := rfl
@[simp] theorem finishBlock_key (k : Schedule) (b : Block) (s : State) : (finishBlock k b s).key = s.key := rfl
@[simp] theorem finishBlock_iv (k : Schedule) (b : Block) (s : State) : (finishBlock k b s).iv = s.iv := rfl
@[simp] theorem finishBlock_chain (k : Schedule) (b : Block) (s : State) : (finishBlock k b s).chain = s.chain := rfl
@[simp] theorem finishBlock_blkin (k : Schedule) (b : Block) (s : State) : (finishBlock k b s).blkin = s.blkin := rfl
@[simp] theorem finishBlock_blkout (k : Schedule) (b : Block) (s : State) : (finishBlock k b s).blkout = b := rfl
@[simp] theorem finishBlock_rk (k : Schedule) (b : Block) (s : State) : (finishBlock k b s).rk = k.rk := rfl
@[simp] theorem finishBlock_mem (k : Schedule) (b : Block) (s : State) : (finishBlock k b s).mem = s.mem := rfl
@[simp] theorem finishBlock_pending (k : Schedule) (b : Block) (s : State) : (finishBlock k b s).pending = none := rfl
@[simp] theorem finishBlock_ksNr (k : Schedule) (b : Block) (s : State) : (finishBlock k b s).ksNr = k.nr := rfl
@[simp] theorem finishBlock_cfg (k : Schedule) (b : Block) (s : State) : (finishBlock k b s).cfg = s.cfg := rfl
@[simp] theorem finishBlock_agenda (k : Schedule) (b : Block) (s : State) : (finishBlock k b s).agenda = s.agenda := rfl
@[simp] theorem finishBlock_resp (k : Schedule) (b : Block) (s : State) : (finishBlock k b s).resp = s.resp := rfl
@[simp] theorem finishBlock_freeCount (k : Schedule) (b : Block) (s : State) : (finishBlock k b s).freeCount = s.freeCount := rfl

@[simp] theorem finishField_cmd (v : Byte) (s : State) : (finishField v s).cmd = s.cmd := rfl
@[simp] theorem finishField_busy (v : Byte) (s : State) : (finishField v s).busy = false := rfl
@[simp] theorem finishField_done (v : Byte) (s : State) : (finishField v s).done = true := rfl
@[simp] theorem finishField_err (v : Byte) (s : State) : (finishField v s).err = false := rfl
@[simp] theorem finishField_ksvalid (v : Byte) (s : State) : (finishField v s).ksvalid = s.ksvalid := rfl
@[simp] theorem finishField_errcode (v : Byte) (s : State) : (finishField v s).errcode = 0 := rfl
@[simp] theorem finishField_keylen (v : Byte) (s : State) : (finishField v s).keylen = s.keylen := rfl
@[simp] theorem finishField_ivlen (v : Byte) (s : State) : (finishField v s).ivlen = s.ivlen := rfl
@[simp] theorem finishField_blklen (v : Byte) (s : State) : (finishField v s).blklen = s.blklen := rfl
@[simp] theorem finishField_msglen (v : Byte) (s : State) : (finishField v s).msglen = s.msglen := rfl
@[simp] theorem finishField_outlen (v : Byte) (s : State) : (finishField v s).outlen = s.outlen := rfl
@[simp] theorem finishField_gfa (v : Byte) (s : State) : (finishField v s).gfa = s.gfa := rfl
@[simp] theorem finishField_gfb (v : Byte) (s : State) : (finishField v s).gfb = s.gfb := rfl
@[simp] theorem finishField_gfp (v : Byte) (s : State) : (finishField v s).gfp = v := rfl
@[simp] theorem finishField_key (v : Byte) (s : State) : (finishField v s).key = s.key := rfl
@[simp] theorem finishField_iv (v : Byte) (s : State) : (finishField v s).iv = s.iv := rfl
@[simp] theorem finishField_chain (v : Byte) (s : State) : (finishField v s).chain = s.chain := rfl
@[simp] theorem finishField_blkin (v : Byte) (s : State) : (finishField v s).blkin = s.blkin := rfl
@[simp] theorem finishField_blkout (v : Byte) (s : State) : (finishField v s).blkout = s.blkout := rfl
@[simp] theorem finishField_rk (v : Byte) (s : State) : (finishField v s).rk = s.rk := rfl
@[simp] theorem finishField_mem (v : Byte) (s : State) : (finishField v s).mem = s.mem := rfl
@[simp] theorem finishField_pending (v : Byte) (s : State) : (finishField v s).pending = none := rfl
@[simp] theorem finishField_ksNr (v : Byte) (s : State) : (finishField v s).ksNr = s.ksNr := rfl
@[simp] theorem finishField_cfg (v : Byte) (s : State) : (finishField v s).cfg = s.cfg := rfl
@[simp] theorem finishField_agenda (v : Byte) (s : State) : (finishField v s).agenda = s.agenda := rfl
@[simp] theorem finishField_resp (v : Byte) (s : State) : (finishField v s).resp = s.resp := rfl
@[simp] theorem finishField_freeCount (v : Byte) (s : State) : (finishField v s).freeCount = s.freeCount := rfl

@[simp] theorem issue_cmd (w : Word) (s : State) : (issue w s).cmd = w := rfl
@[simp] theorem issue_busy (w : Word) (s : State) : (issue w s).busy = true := rfl
@[simp] theorem issue_done (w : Word) (s : State) : (issue w s).done = false := rfl
@[simp] theorem issue_err (w : Word) (s : State) : (issue w s).err = false := rfl
@[simp] theorem issue_ksvalid (w : Word) (s : State) : (issue w s).ksvalid = s.ksvalid := rfl
@[simp] theorem issue_errcode (w : Word) (s : State) : (issue w s).errcode = 0 := rfl
@[simp] theorem issue_keylen (w : Word) (s : State) : (issue w s).keylen = s.keylen := rfl
@[simp] theorem issue_ivlen (w : Word) (s : State) : (issue w s).ivlen = s.ivlen := rfl
@[simp] theorem issue_blklen (w : Word) (s : State) : (issue w s).blklen = s.blklen := rfl
@[simp] theorem issue_msglen (w : Word) (s : State) : (issue w s).msglen = s.msglen := rfl
@[simp] theorem issue_outlen (w : Word) (s : State) : (issue w s).outlen = s.outlen := rfl
@[simp] theorem issue_gfa (w : Word) (s : State) : (issue w s).gfa = s.gfa := rfl
@[simp] theorem issue_gfb (w : Word) (s : State) : (issue w s).gfb = s.gfb := rfl
@[simp] theorem issue_gfp (w : Word) (s : State) : (issue w s).gfp = s.gfp := rfl
@[simp] theorem issue_key (w : Word) (s : State) : (issue w s).key = s.key := rfl
@[simp] theorem issue_iv (w : Word) (s : State) : (issue w s).iv = s.iv := rfl
@[simp] theorem issue_chain (w : Word) (s : State) : (issue w s).chain = s.chain := rfl
@[simp] theorem issue_blkin (w : Word) (s : State) : (issue w s).blkin = s.blkin := rfl
@[simp] theorem issue_blkout (w : Word) (s : State) : (issue w s).blkout = s.blkout := rfl
@[simp] theorem issue_rk (w : Word) (s : State) : (issue w s).rk = s.rk := rfl
@[simp] theorem issue_mem (w : Word) (s : State) : (issue w s).mem = s.mem := rfl
@[simp] theorem issue_pending (w : Word) (s : State) : (issue w s).pending = some w := rfl
@[simp] theorem issue_ksNr (w : Word) (s : State) : (issue w s).ksNr = s.ksNr := rfl
@[simp] theorem issue_cfg (w : Word) (s : State) : (issue w s).cfg = s.cfg := rfl
@[simp] theorem issue_agenda (w : Word) (s : State) : (issue w s).agenda = s.agenda := rfl
@[simp] theorem issue_resp (w : Word) (s : State) : (issue w s).resp = s.resp := rfl
@[simp] theorem issue_freeCount (w : Word) (s : State) : (issue w s).freeCount = s.freeCount := rfl

@[simp] theorem takeEvent_cmd (s : State) : (takeEvent s).cmd = s.cmd := rfl
@[simp] theorem takeEvent_busy (s : State) : (takeEvent s).busy = s.busy := rfl
@[simp] theorem takeEvent_done (s : State) : (takeEvent s).done = s.done := rfl
@[simp] theorem takeEvent_err (s : State) : (takeEvent s).err = s.err := rfl
@[simp] theorem takeEvent_ksvalid (s : State) : (takeEvent s).ksvalid = s.ksvalid := rfl
@[simp] theorem takeEvent_errcode (s : State) : (takeEvent s).errcode = s.errcode := rfl
@[simp] theorem takeEvent_keylen (s : State) : (takeEvent s).keylen = s.keylen := rfl
@[simp] theorem takeEvent_ivlen (s : State) : (takeEvent s).ivlen = s.ivlen := rfl
@[simp] theorem takeEvent_blklen (s : State) : (takeEvent s).blklen = s.blklen := rfl
@[simp] theorem takeEvent_msglen (s : State) : (takeEvent s).msglen = s.msglen := rfl
@[simp] theorem takeEvent_outlen (s : State) : (takeEvent s).outlen = s.outlen := rfl
@[simp] theorem takeEvent_gfa (s : State) : (takeEvent s).gfa = s.gfa := rfl
@[simp] theorem takeEvent_gfb (s : State) : (takeEvent s).gfb = s.gfb := rfl
@[simp] theorem takeEvent_gfp (s : State) : (takeEvent s).gfp = s.gfp := rfl
@[simp] theorem takeEvent_key (s : State) : (takeEvent s).key = s.key := rfl
@[simp] theorem takeEvent_iv (s : State) : (takeEvent s).iv = s.iv := rfl
@[simp] theorem takeEvent_chain (s : State) : (takeEvent s).chain = s.chain := rfl
@[simp] theorem takeEvent_blkin (s : State) : (takeEvent s).blkin = s.blkin := rfl
@[simp] theorem takeEvent_blkout (s : State) : (takeEvent s).blkout = s.blkout := rfl
@[simp] theorem takeEvent_rk (s : State) : (takeEvent s).rk = s.rk := rfl
@[simp] theorem takeEvent_mem (s : State) : (takeEvent s).mem = s.mem := rfl
@[simp] theorem takeEvent_pending (s : State) : (takeEvent s).pending = s.pending := rfl
@[simp] theorem takeEvent_ksNr (s : State) : (takeEvent s).ksNr = s.ksNr := rfl
@[simp] theorem takeEvent_cfg (s : State) : (takeEvent s).cfg = s.cfg := rfl
@[simp] theorem takeEvent_agenda (s : State) : (takeEvent s).agenda = s.agenda.tail := rfl
@[simp] theorem takeEvent_resp (s : State) : (takeEvent s).resp = none := rfl
@[simp] theorem takeEvent_freeCount (s : State) : (takeEvent s).freeCount = s.freeCount := rfl

@[simp] theorem assertReset_cmd (s : State) : (assertReset s).cmd = 0 := rfl
@[simp] theorem assertReset_busy (s : State) : (assertReset s).busy = false := rfl
@[simp] theorem assertReset_done (s : State) : (assertReset s).done = false := rfl
@[simp] theorem assertReset_err (s : State) : (assertReset s).err = false := rfl
@[simp] theorem assertReset_ksvalid (s : State) : (assertReset s).ksvalid = false := rfl
@[simp] theorem assertReset_errcode (s : State) : (assertReset s).errcode = 0 := rfl
@[simp] theorem assertReset_keylen (s : State) : (assertReset s).keylen = 0 := rfl
@[simp] theorem assertReset_ivlen (s : State) : (assertReset s).ivlen = 0 := rfl
@[simp] theorem assertReset_blklen (s : State) : (assertReset s).blklen = 0 := rfl
@[simp] theorem assertReset_msglen (s : State) : (assertReset s).msglen = 0 := rfl
@[simp] theorem assertReset_outlen (s : State) : (assertReset s).outlen = 0 := rfl
@[simp] theorem assertReset_gfa (s : State) : (assertReset s).gfa = 0 := rfl
@[simp] theorem assertReset_gfb (s : State) : (assertReset s).gfb = 0 := rfl
@[simp] theorem assertReset_gfp (s : State) : (assertReset s).gfp = 0 := rfl
@[simp] theorem assertReset_key (s : State) : (assertReset s).key = 0 := rfl
@[simp] theorem assertReset_iv (s : State) : (assertReset s).iv = 0 := rfl
@[simp] theorem assertReset_chain (s : State) : (assertReset s).chain = 0 := rfl
@[simp] theorem assertReset_blkin (s : State) : (assertReset s).blkin = 0 := rfl
@[simp] theorem assertReset_blkout (s : State) : (assertReset s).blkout = 0 := rfl
@[simp] theorem assertReset_rk (s : State) : (assertReset s).rk = Vector.replicate 15 0 := rfl
@[simp] theorem assertReset_mem (s : State) : (assertReset s).mem = s.mem := rfl
@[simp] theorem assertReset_pending (s : State) : (assertReset s).pending = none := rfl
@[simp] theorem assertReset_ksNr (s : State) : (assertReset s).ksNr = 0 := rfl
@[simp] theorem assertReset_cfg (s : State) : (assertReset s).cfg = s.cfg := rfl
@[simp] theorem assertReset_agenda (s : State) : (assertReset s).agenda = s.agenda := rfl
@[simp] theorem assertReset_resp (s : State) : (assertReset s).resp = none := rfl
@[simp] theorem assertReset_freeCount (s : State) : (assertReset s).freeCount = s.freeCount := rfl

/-- Power-on is reset with nothing written in IN or OUT (R901). -/
theorem assertPowerOn_eq (s : State) : assertPowerOn s = { assertReset s with mem := [] } := rfl

/-- The state after power-on is what power-on leaves of any state of the default build with nothing scheduled (R901). -/
theorem reset_eq_assertPowerOn :
    State.reset = { assertPowerOn State.reset with agenda := [], freeCount := 0 } := rfl

end Sys2Proof.Machine
end

