-- ==== Sys2Proof/Laws/Ops.lean ====
section
/-! SUPPORT. What each shared operation can do, said once: the key check, the prologues, the message read, and what each family of meanings answers. -/

namespace Sys2Proof.Machine

theorem keylenLegal_iff (s : State) :
    keylenLegal s = true ↔ s.keylen = 16 ∨ s.keylen = 24 ∨ s.keylen = 32 := by
  simp [keylenLegal, or_assoc]

/-- `ensure_schedule` answers exactly the schedule of R508. -/
theorem ensureSchedule_eq_some (s : State) (k : Schedule) :
    ensureSchedule s = some k ↔ HasSchedule s k := by
  unfold ensureSchedule HasSchedule
  rw [← keylenLegal_iff, eq_comm (a := k), eq_comm (a := k)]
  cases h : s.ksvalid <;> cases hk : keylenLegal s <;> simp [expandKey, cachedSchedule]

/-- `ensure_schedule` fails exactly where no schedule is cached and KEYLEN is not legal (R508). -/
theorem ensureSchedule_eq_none (s : State) : ensureSchedule s = none ↔ NoSchedule s := by
  have e : NoSchedule s ↔ s.ksvalid = false ∧ ¬ keylenLegal s = true := by
    rw [keylenLegal_iff]; unfold NoSchedule; tauto
  rw [e]
  unfold ensureSchedule
  cases h : s.ksvalid <;> cases hk : keylenLegal s <;> simp

/-- The message prologue passes exactly when its three checks do (R700, R701). -/
theorem msgPrologue_eq_ok (s : State) (k : Schedule) :
    msgPrologue s = .ok k ↔ HasSchedule s k ∧ s.ivlen = 16 ∧ s.msglen.toNat ≤ s.cfg.msgbufBytes := by
  unfold msgPrologue
  cases h : ensureSchedule s with
  | none =>
    have : ¬ HasSchedule s k := fun hk => by simp [(ensureSchedule_eq_some s k).mpr hk] at h
    simp [this]
  | some k' =>
    have e : HasSchedule s k ↔ k' = k := by rw [← ensureSchedule_eq_some, h]; simp
    rw [e]
    by_cases h1 : s.ivlen = 16
    · by_cases h2 : s.msglen.toNat ≤ s.cfg.msgbufBytes
      · simp only [h1, ne_eq, not_true, if_false, if_neg (Nat.not_lt.mpr h2), h2, and_true, Except.ok.injEq]
      · simp only [h1, ne_eq, not_true, if_false, if_pos (Nat.lt_of_not_le h2), h2, and_false, reduceCtorEq]
    · simp only [ne_eq, h1, not_false_eq_true, if_true, false_and, and_false, reduceCtorEq]

/-- The code the message prologue fails with: the first check that fails decides (R405, R810). -/
theorem msgPrologue_eq_error (s : State) (c : Code) (h : msgPrologue s = .error c) :
    (c = .invalidKeyLength ∧ NoSchedule s) ∨
    (∃ k, HasSchedule s k ∧
      ((c = .invalidIVLength ∧ s.ivlen ≠ 16) ∨
       (c = .lengthOverflow ∧ s.ivlen = 16 ∧ s.cfg.msgbufBytes < s.msglen.toNat))) := by
  unfold msgPrologue at h
  split at h
  · rename_i hk
    exact .inl ⟨by cases h; rfl, (ensureSchedule_eq_none s).mp hk⟩
  · rename_i k hk
    refine .inr ⟨k, (ensureSchedule_eq_some s k).mp hk, ?_⟩
    split at h
    · rename_i h1
      exact .inl ⟨by cases h; rfl, h1⟩
    · rename_i h1
      split at h
      · rename_i h2
        exact .inr ⟨by cases h; rfl, not_not.mp h1, h2⟩
      · cases h

/-- The block prologue passes exactly when its two checks do (R611). -/
theorem blockPrologue_eq_ok (s : State) (k : Schedule) :
    blockPrologue s = .ok k ↔ HasSchedule s k ∧ s.blklen = 16 := by
  unfold blockPrologue
  cases h : ensureSchedule s with
  | none =>
    have : ¬ HasSchedule s k := fun hk => by simp [(ensureSchedule_eq_some s k).mpr hk] at h
    simp [this]
  | some k' =>
    have e : HasSchedule s k ↔ k' = k := by rw [← ensureSchedule_eq_some, h]; simp
    rw [e]
    by_cases h1 : s.blklen = 16
    · simp only [h1, ne_eq, not_true, if_false, and_true, Except.ok.injEq]
    · simp only [ne_eq, h1, not_false_eq_true, if_true, and_false, reduceCtorEq]

/-- No prologue fails with code 0. -/
theorem blockPrologue_error_ne (s : State) (c : Code) (h : blockPrologue s = .error c) : codeBits c ≠ 0 := by
  unfold blockPrologue at h
  split at h
  · cases h; decide
  · split at h
    · cases h; decide
    · cases h

theorem msgPrologue_error_ne (s : State) (c : Code) (h : msgPrologue s = .error c) : codeBits c ≠ 0 := by
  rcases msgPrologue_eq_error s c h with ⟨rfl, -⟩ | ⟨_, -, ⟨rfl, -⟩ | ⟨rfl, -⟩⟩ <;> decide

/-- The message read answers exactly the message that IN holds (R208, R824). -/
theorem readMessage_eq_some (s : State) (m : List Byte) : readMessage s = some m ↔ HoldsMessage s m := by
  unfold readMessage HoldsMessage
  constructor
  · intro h
    obtain ⟨h1, h2⟩ := memReadBytes_eq_some _ _ _ _ h
    exact ⟨h1, fun i hi => h2 i (h1 ▸ hi)⟩
  · rintro ⟨h1, h2⟩
    rw [← h1]
    exact memReadBytes_of_bytes m s.mem inBase h2

/-- What ENCB and DECB answer: a failure that changes STATUS only, or BLKOUT and the schedule (R611, R612). -/
theorem execBlock_cases (i : Instr) (hi : i = .encb ∨ i = .decb) (s t : State) (h : exec i s = .next t) :
    (∃ c, codeBits c ≠ 0 ∧ t = complete c s) ∨
    (∃ k b, HasSchedule s k ∧ s.blklen = 16 ∧ t = finishBlock k b s) := by
  rcases hi with rfl | rfl <;>
    (simp only [exec, execEncb, execDecb] at h
     split at h
     · rename_i c hc
       injection h with h
       exact .inl ⟨c, blockPrologue_error_ne s c hc, h.symm⟩
     · rename_i k hk
       injection h with h
       obtain ⟨h1, h2⟩ := (blockPrologue_eq_ok s k).mp hk
       exact .inr ⟨k, _, h1, h2, h.symm⟩)

/-- What a message command answers: a failure that changes STATUS and OUTLEN only, or its results, the
output no longer than the buffer (R708 to R711). -/
theorem execMessage_cases (i : Instr) (hi : i ∈ messageCommands) (s t : State) (h : exec i s = .next t) :
    (∃ c, codeBits c ≠ 0 ∧ t = failMsg c s) ∨
    (∃ k m o b, HasSchedule s k ∧ s.ivlen = 16 ∧ s.msglen.toNat ≤ s.cfg.msgbufBytes ∧
      HoldsMessage s m ∧ o.length ≤ s.cfg.msgbufBytes ∧ t = finishMessage k o b s) := by
  have done : ∀ k m o b, msgPrologue s = .ok k → readMessage s = some m → o.length ≤ s.cfg.msgbufBytes →
      (Host.Outcome.next (finishMessage k o b s) : Host.Outcome State Fault Refusal) = .next t →
      ∃ k m o b, HasSchedule s k ∧ s.ivlen = 16 ∧ s.msglen.toNat ≤ s.cfg.msgbufBytes ∧
        HoldsMessage s m ∧ o.length ≤ s.cfg.msgbufBytes ∧ t = finishMessage k o b s := by
    intro k m o b hk hm ho ht
    obtain ⟨h1, h2, h3⟩ := (msgPrologue_eq_ok s k).mp hk
    injection ht with ht
    exact ⟨k, m, o, b, h1, h2, h3, (readMessage_eq_some s m).mp hm, ho, ht.symm⟩
  have fails : ∀ c, codeBits c ≠ 0 →
      (Host.Outcome.next (failMsg c s) : Host.Outcome State Fault Refusal) = .next t →
      ∃ c, codeBits c ≠ 0 ∧ t = failMsg c s := by
    intro c hc ht
    injection ht with ht
    exact ⟨c, hc, ht.symm⟩
  have len : ∀ k m, msgPrologue s = .ok k → readMessage s = some m →
      m.length = s.msglen.toNat ∧ s.msglen.toNat ≤ s.cfg.msgbufBytes := fun k m hk hm =>
    ⟨((readMessage_eq_some s m).mp hm).1, ((msgPrologue_eq_ok s k).mp hk).2.2⟩
  simp only [messageCommands, List.mem_cons, List.not_mem_nil, or_false] at hi
  rcases hi with rfl | rfl | rfl | rfl <;>
    simp only [exec, execMsgencCbc, execMsgdecCbc, execMsgencCtr, execMsgdecCtr, ctrCommand] at h
  · split at h
    · rename_i c hc; exact .inl (fails c (msgPrologue_error_ne s c hc) h)
    · rename_i k hk
      split at h
      · exact .inl (fails _ (by decide) h)
      · rename_i hfit
        split at h
        · cases h
        · rename_i m hm
          refine .inr (done k m _ _ hk hm ?_ h)
          rw [cbcCiphertext_length, (len k m hk hm).1]
          omega
  · split at h
    · rename_i c hc; exact .inl (fails c (msgPrologue_error_ne s c hc) h)
    · rename_i k hk
      split at h
      · exact .inl (fails _ (by decide) h)
      · split at h
        · cases h
        · rename_i m hm
          split at h
          · exact .inl (fails _ (by decide) h)
          · rename_i p hp
            refine .inr (done k m _ _ hk hm ?_ h)
            have := unpad_length _ _ hp
            have := cbcPlaintext_length k s.iv m
            have := len k m hk hm
            omega
  all_goals
    split at h
    · rename_i c hc; exact .inl (fails c (msgPrologue_error_ne s c hc) h)
    · rename_i k hk
      split at h
      · cases h
      · rename_i m hm
        refine .inr (done k m _ _ hk hm ?_ h)
        have := len k m hk hm
        rw [ctrXcrypt_length]
        omega

/-- Everything a command that goes on can do, over all 40: a failure, or the results of its family. -/
theorem exec_cases (i : Instr) (s t : State) (h : exec i s = .next t) :
    (∃ c, codeBits c ≠ 0 ∧ i ∉ messageWords ∧ t = complete c s) ∨
    (∃ c, codeBits c ≠ 0 ∧ i ∈ messageWords ∧ t = failMsg c s) ∨
    (i = .nop ∧ t = complete .success s) ∨
    (i = .keyexp ∧ keylenLegal s = true ∧ t = complete .success (commitSchedule (expandKey s) s)) ∨
    (i ∈ fieldCommands ∧ ∃ v, t = finishField v s) ∨
    (i ∈ blockCommands ∧ ∃ k b, HasSchedule s k ∧ s.blklen = 16 ∧ t = finishBlock k b s) ∨
    (i ∈ messageCommands ∧ ∃ k m o b, HasSchedule s k ∧ s.ivlen = 16 ∧ s.msglen.toNat ≤ s.cfg.msgbufBytes ∧
      HoldsMessage s m ∧ o.length ≤ s.cfg.msgbufBytes ∧ t = finishMessage k o b s) := by
  have block : ∀ i, i = .encb ∨ i = .decb → exec i s = .next t →
      (∃ c, codeBits c ≠ 0 ∧ t = complete c s) ∨
        (∃ k b, HasSchedule s k ∧ s.blklen = 16 ∧ t = finishBlock k b s) :=
    fun i hi h => execBlock_cases i hi s t h
  by_cases hm : i ∈ messageCommands
  · rcases execMessage_cases i hm s t h with ⟨c, hc, e⟩ | r
    · exact .inr (.inl ⟨c, hc, by simp [messageWords, hm], e⟩)
    · exact .inr (.inr (.inr (.inr (.inr (.inr ⟨hm, r⟩)))))
  · cases i
    case nop => injection h with h; exact .inr (.inr (.inl ⟨rfl, h.symm⟩))
    case keyexp =>
      simp only [exec, execKeyexp] at h
      split at h
      · injection h with h; exact .inr (.inr (.inr (.inl ⟨rfl, ‹_›, h.symm⟩)))
      · injection h with h; exact .inl ⟨_, by decide, by decide, h.symm⟩
    case encb =>
      rcases block _ (.inl rfl) h with ⟨c, hc, e⟩ | r
      · exact .inl ⟨c, hc, by decide, e⟩
      · exact .inr (.inr (.inr (.inr (.inr (.inl ⟨by decide, r⟩)))))
    case decb =>
      rcases block _ (.inr rfl) h with ⟨c, hc, e⟩ | r
      · exact .inl ⟨c, hc, by decide, e⟩
      · exact .inr (.inr (.inr (.inr (.inr (.inl ⟨by decide, r⟩)))))
    case gfmul | gfinv | sbox | isbox =>
      injection h with h
      exact .inr (.inr (.inr (.inr (.inl ⟨by decide, _, h.symm⟩))))
    case msgencCbc | msgdecCbc | msgencCtr | msgdecCtr => exact absurd (by decide) hm
    all_goals
      injection h with h
      exact .inr (.inl ⟨.unsupportedMode, by decide, by decide, h.symm⟩)

/-- When a command stops: a message command that meets an unwritten byte of its message (R824). -/
theorem exec_stops (i : Instr) (s : State) :
    (∃ t, exec i s = .next t) ∨ (exec i s = .fault .uninitRead ∧ i ∈ messageCommands ∧ readMessage s = none) := by
  cases i
  case nop | gfmul | gfinv | sbox | isbox => exact .inl ⟨_, rfl⟩
  case keyexp => simp only [exec, execKeyexp]; split <;> exact .inl ⟨_, rfl⟩
  case encb => simp only [exec, execEncb]; split <;> exact .inl ⟨_, rfl⟩
  case decb => simp only [exec, execDecb]; split <;> exact .inl ⟨_, rfl⟩
  case msgencCbc | msgdecCbc | msgencCtr | msgdecCtr =>
    simp only [exec, execMsgencCbc, execMsgdecCbc, execMsgencCtr, execMsgdecCtr, ctrCommand]
    repeat' split
    all_goals first | exact .inl ⟨_, rfl⟩ | exact .inr ⟨rfl, by decide, ‹_›⟩
  all_goals exact .inl ⟨_, rfl⟩

end Sys2Proof.Machine
end

