-- ==== Sys2Proof/Laws/PerInstr.lean ====
section
/-! SUPPORT. Statements made for every instruction, one lemma a constructor: the decoder reads back the encoder's word. -/

namespace Sys2Proof.Laws

/-- The decoder reads instruction `i` from the word the encoder writes for it, and that word's fields are well formed. -/
def DecodeEncode.Statement (i : Instr) : Prop :=
  decode (encode i) = .ok i ∧ (fieldsOf (encode i)).wf = true

theorem DecodeEncode.nop : DecodeEncode.Statement .nop := ⟨rfl, rfl⟩
theorem DecodeEncode.keyexp : DecodeEncode.Statement .keyexp := ⟨rfl, rfl⟩
theorem DecodeEncode.encb : DecodeEncode.Statement .encb := ⟨rfl, rfl⟩
theorem DecodeEncode.decb : DecodeEncode.Statement .decb := ⟨rfl, rfl⟩
theorem DecodeEncode.gfmul : DecodeEncode.Statement .gfmul := ⟨rfl, rfl⟩
theorem DecodeEncode.gfinv : DecodeEncode.Statement .gfinv := ⟨rfl, rfl⟩
theorem DecodeEncode.sbox : DecodeEncode.Statement .sbox := ⟨rfl, rfl⟩
theorem DecodeEncode.isbox : DecodeEncode.Statement .isbox := ⟨rfl, rfl⟩
theorem DecodeEncode.msgencCbc : DecodeEncode.Statement .msgencCbc := ⟨rfl, rfl⟩
theorem DecodeEncode.msgdecCbc : DecodeEncode.Statement .msgdecCbc := ⟨rfl, rfl⟩
theorem DecodeEncode.msgencCtr : DecodeEncode.Statement .msgencCtr := ⟨rfl, rfl⟩
theorem DecodeEncode.msgdecCtr : DecodeEncode.Statement .msgdecCtr := ⟨rfl, rfl⟩
theorem DecodeEncode.msgenc2 : DecodeEncode.Statement .msgenc2 := ⟨rfl, rfl⟩
theorem DecodeEncode.msgenc3 : DecodeEncode.Statement .msgenc3 := ⟨rfl, rfl⟩
theorem DecodeEncode.msgenc4 : DecodeEncode.Statement .msgenc4 := ⟨rfl, rfl⟩
theorem DecodeEncode.msgenc5 : DecodeEncode.Statement .msgenc5 := ⟨rfl, rfl⟩
theorem DecodeEncode.msgenc6 : DecodeEncode.Statement .msgenc6 := ⟨rfl, rfl⟩
theorem DecodeEncode.msgenc7 : DecodeEncode.Statement .msgenc7 := ⟨rfl, rfl⟩
theorem DecodeEncode.msgenc8 : DecodeEncode.Statement .msgenc8 := ⟨rfl, rfl⟩
theorem DecodeEncode.msgenc9 : DecodeEncode.Statement .msgenc9 := ⟨rfl, rfl⟩
theorem DecodeEncode.msgenc10 : DecodeEncode.Statement .msgenc10 := ⟨rfl, rfl⟩
theorem DecodeEncode.msgenc11 : DecodeEncode.Statement .msgenc11 := ⟨rfl, rfl⟩
theorem DecodeEncode.msgenc12 : DecodeEncode.Statement .msgenc12 := ⟨rfl, rfl⟩
theorem DecodeEncode.msgenc13 : DecodeEncode.Statement .msgenc13 := ⟨rfl, rfl⟩
theorem DecodeEncode.msgenc14 : DecodeEncode.Statement .msgenc14 := ⟨rfl, rfl⟩
theorem DecodeEncode.msgenc15 : DecodeEncode.Statement .msgenc15 := ⟨rfl, rfl⟩
theorem DecodeEncode.msgdec2 : DecodeEncode.Statement .msgdec2 := ⟨rfl, rfl⟩
theorem DecodeEncode.msgdec3 : DecodeEncode.Statement .msgdec3 := ⟨rfl, rfl⟩
theorem DecodeEncode.msgdec4 : DecodeEncode.Statement .msgdec4 := ⟨rfl, rfl⟩
theorem DecodeEncode.msgdec5 : DecodeEncode.Statement .msgdec5 := ⟨rfl, rfl⟩
theorem DecodeEncode.msgdec6 : DecodeEncode.Statement .msgdec6 := ⟨rfl, rfl⟩
theorem DecodeEncode.msgdec7 : DecodeEncode.Statement .msgdec7 := ⟨rfl, rfl⟩
theorem DecodeEncode.msgdec8 : DecodeEncode.Statement .msgdec8 := ⟨rfl, rfl⟩
theorem DecodeEncode.msgdec9 : DecodeEncode.Statement .msgdec9 := ⟨rfl, rfl⟩
theorem DecodeEncode.msgdec10 : DecodeEncode.Statement .msgdec10 := ⟨rfl, rfl⟩
theorem DecodeEncode.msgdec11 : DecodeEncode.Statement .msgdec11 := ⟨rfl, rfl⟩
theorem DecodeEncode.msgdec12 : DecodeEncode.Statement .msgdec12 := ⟨rfl, rfl⟩
theorem DecodeEncode.msgdec13 : DecodeEncode.Statement .msgdec13 := ⟨rfl, rfl⟩
theorem DecodeEncode.msgdec14 : DecodeEncode.Statement .msgdec14 := ⟨rfl, rfl⟩
theorem DecodeEncode.msgdec15 : DecodeEncode.Statement .msgdec15 := ⟨rfl, rfl⟩

end Sys2Proof.Laws
end

