-- ==== Sys2Proof/Laws/Port.lean ====
section
/-! SUPPORT. Lemmas of the host port: alignment as a remainder, the bounds of a build, and the addresses of each target. -/

namespace Sys2Proof.Machine

/-- a[1:0] != 0 says that the address is no multiple of 4 (R202). -/
theorem misaligned_eq (a : Addr) : misaligned a = decide (a.toNat % 4 ≠ 0) := by
  rw [Bool.eq_iff_iff]
  unfold misaligned
  simp only [bne_iff_ne, ne_eq, decide_eq_true_eq, ← BitVec.toNat_inj, BitVec.extractLsb'_toNat]
  simp

/-- MSGBUF_BYTES is a multiple of 16 from 16 to 65536 (R11). -/
theorem msgbufBytes_bounds (c : Config) :
    16 ≤ c.msgbufBytes ∧ c.msgbufBytes ≤ 65536 ∧ c.msgbufBytes % 16 = 0 := by
  unfold Config.msgbufBytes
  omega

theorem inBuffer_iff (c : Config) (a : Nat) :
    inBuffer c a = true ↔ 0x10000 ≤ a ∧ a < 0x10000 + c.msgbufBytes := by
  rw [inBuffer, Bool.and_eq_true, decide_eq_true_eq, decide_eq_true_eq, inBase]

theorem outBuffer_iff (c : Config) (a : Nat) :
    outBuffer c a = true ↔ 0x20000 ≤ a ∧ a < 0x20000 + c.msgbufBytes := by
  rw [outBuffer, Bool.and_eq_true, decide_eq_true_eq, decide_eq_true_eq, outBase]

/-- The addresses at which a target stands in a build (R103, R204). -/
def Target.standsAt (c : Config) (a : Nat) : Target → Prop
  | .id => a = 0x000
  | .cmd => a = 0x004
  | .status => a = 0x008
  | .keylen => a = 0x00C
  | .ivlen => a = 0x010
  | .blklen => a = 0x014
  | .msglen => a = 0x018
  | .outlen => a = 0x01C
  | .gfa => a = 0x020
  | .gfb => a = 0x024
  | .gfp => a = 0x028
  | .bufsize => a = 0x02C
  | .key k => 0x040 ≤ a ∧ a < 0x060 ∧ k = (a - 0x040) / 4
  | .iv k => 0x060 ≤ a ∧ a < 0x070 ∧ k = (a - 0x060) / 4
  | .chain k => 0x070 ≤ a ∧ a < 0x080 ∧ k = (a - 0x070) / 4
  | .blkin k => 0x080 ≤ a ∧ a < 0x090 ∧ k = (a - 0x080) / 4
  | .blkout k => 0x090 ≤ a ∧ a < 0x0A0 ∧ k = (a - 0x090) / 4
  | .rk j k => 0x100 ≤ a ∧ a < 0x1F0 ∧ j = (a - 0x100) / 16 ∧ k = (a - 0x100) % 16 / 4
  | .inBuf => 0x10000 ≤ a ∧ a < 0x10000 + c.msgbufBytes
  | .outBuf => 0x20000 ≤ a ∧ a < 0x20000 + c.msgbufBytes
  | .reserved =>
    (0x030 ≤ a ∧ a < 0x040) ∨ (0x0A0 ≤ a ∧ a < 0x100) ∨ (0x1F0 ≤ a ∧ a < 0x10000) ∨
      (0x10000 + c.msgbufBytes ≤ a ∧ a < 0x20000) ∨ 0x20000 + c.msgbufBytes ≤ a

/-- What stands at an aligned address stands there by the map of R103 and R204. -/
theorem targetOf_standsAt (c : Config) (a : Nat) (h : a % 4 = 0) : (targetOf c a).standsAt c a := by
  have hb := msgbufBytes_bounds c
  have step : ∀ (p : Prop) [Decidable p] (t e : Target),
      (p → t.standsAt c a) → (¬ p → e.standsAt c a) → (if p then t else e).standsAt c a := by
    intro p _ t e h1 h2
    split
    · exact h1 ‹_›
    · exact h2 ‹_›
  unfold targetOf
  repeat' refine step _ _ _ (fun _ => ?_) (fun _ => ?_)
  all_goals try simp only [inBuffer_iff, outBuffer_iff] at *
  all_goals simp only [Target.standsAt, and_true]
  all_goals omega

/-- The map of R103 and R204 has one target for each aligned address. -/
theorem targetOf_eq (c : Config) (a : Nat) (h : a % 4 = 0) (t : Target) (ht : t.standsAt c a) :
    targetOf c a = t := by
  have h0 := targetOf_standsAt c a h
  have hb := msgbufBytes_bounds c
  generalize targetOf c a = u at h0
  cases u <;> cases t <;> simp only [Target.standsAt] at h0 ht <;>
    first
    | rfl
    | (exfalso; omega)
    | (obtain ⟨-, -, rfl⟩ := h0; obtain ⟨-, -, rfl⟩ := ht; rfl)
    | (obtain ⟨-, -, rfl, rfl⟩ := h0; obtain ⟨-, -, rfl, rfl⟩ := ht; rfl)

/-- An aligned write to the idle engine is the write of its target, answered (R200). -/
theorem hostWrite_idle (a : Addr) (v : Word) (s : State) (h : a.toNat % 4 = 0) (hb : s.busy = false) :
    hostWrite a v s = { writeTarget a.toNat v s with resp := some { busError := false, rdata := none } } := by
  simp [hostWrite, misaligned_eq, h, hb]

/-- The response to an aligned read (R200, R212). -/
theorem hostRead_resp (a : Addr) (s : State) (h : a.toNat % 4 = 0) :
    (hostRead a s).resp = some { busError := false, rdata := some (readData s a.toNat) } := by
  simp [hostRead, misaligned_eq, h]

/-- The data of a read of the idle engine (R103). -/
theorem readData_idle (s : State) (a : Nat) (hb : s.busy = false) : readData s a = readTarget s a := by
  simp [readData, hb]

end Sys2Proof.Machine
end

