-- ==== Sys2Proof/Laws/Step.lean ====
section
/-! SUPPORT. What an access and a step can do, said once, and the one induction over the events of a step. -/

namespace Sys2Proof.Machine

/-- What an access can do: nothing but answer, or an accepted write to its target (R200, R202, R212). -/
theorem hostAccess_cases (x : Access) (s : State) :
    (∃ r n, hostAccess x s = { s with resp := r, freeCount := n }) ∨
    (∃ a v, x = .write a v ∧ s.busy = false ∧ a.toNat % 4 = 0 ∧
      hostAccess x s = { writeTarget a.toNat v s with resp := some { busError := false, rdata := none } }) := by
  cases x with
  | read a => left; simp only [hostAccess, hostRead]; split <;> exact ⟨_, _, rfl⟩
  | write a v =>
    by_cases h : a.toNat % 4 = 0
    · cases hb : s.busy
      · exact .inr ⟨a, v, rfl, rfl, h, hostWrite_idle a v s h hb⟩
      · exact .inl ⟨some { busError := false, rdata := none }, s.freeCount, by
          simp [hostAccess, hostWrite, misaligned_eq, h, hb]⟩
    · exact .inl ⟨some { busError := true, rdata := none }, s.freeCount, by
        simp [hostAccess, hostWrite, misaligned_eq, h]⟩

/-- An aligned read of the idle engine is answered with the value of its target (R103, R200). -/
theorem hostReads_idle (a : Addr) (s : State) (h : a.toNat % 4 = 0) (hb : s.busy = false) :
    HostReads s a (readTarget s a.toNat) := by
  rw [HostReads, hostAccess, hostRead_resp a s h, readData_idle s _ hb]

/-- A property that every kind of event keeps is kept by every step: an accepted write, a reset, a
power-on, the completion of an illegal word, a command; and it does not read the model's own fields. -/
theorem step_keeps (P : State → Prop)
    (hown : ∀ s a r n, P s → P { s with agenda := a, resp := r, freeCount := n })
    (hwrite : ∀ s a v, P s → s.busy = false → a % 4 = 0 → P (writeTarget a v s))
    (hreset : ∀ s, P s → P (assertReset s)) (hpower : ∀ s, P s → P (assertPowerOn s))
    (hillegal : ∀ s w, P s → s.pending = some w → P (complete .illegalCommand s))
    (hexec : ∀ i s t w, P s → s.pending = some w → exec i s = .next t → P t) :
    ∀ s t, P s → step s = .next t → P t := by
  intro s t h hs
  have h0 : P (takeEvent s) := hown s _ _ s.freeCount h
  unfold step at hs
  cases hev : nextEvent s with
  | access x =>
    rw [hev] at hs
    simp only [runEvent] at hs
    injection hs with hs
    subst hs
    rcases hostAccess_cases x (takeEvent s) with ⟨r, n, e⟩ | ⟨a, v, -, hb, ha, e⟩
    · rw [e]; exact hown (takeEvent s) _ r n h0
    · rw [e]; exact hown _ _ _ _ (hwrite _ _ v h0 hb ha)
  | engine =>
    rw [hev] at hs
    simp only [runEvent, engineTurn] at hs
    split at hs
    · injection hs with hs; subst hs; exact h0
    · rename_i w hw
      simp only [executeWord] at hs
      split at hs
      · injection hs with hs; subst hs; exact hillegal _ w h0 hw
      · exact hexec _ _ _ w h0 hw hs
  | reset => rw [hev] at hs; simp only [runEvent] at hs; injection hs with hs; subst hs; exact hreset _ h0
  | powerOn => rw [hev] at hs; simp only [runEvent] at hs; injection hs with hs; subst hs; exact hpower _ h0

end Sys2Proof.Machine
end

