-- ==== Sys2Proof/Tests/Slice0.lean ====
section
/-! SUPPORT. Our own tests: words written out from the encoding, single steps on vectors of 95_test_vectors.md, and a witness for the hypotheses of every statement. -/

namespace Sys2Proof.Tests

open Sys2Proof.Machine

/-! ### Well-formedness: each check refuses an ill-formed term (R301 to R303) -/

theorem test_wf_refuses_rsvd : (CmdFields.mk 1 0 0x00).wf = false ∧ (CmdFields.mk 1 0 0x00).rsvdOk = false := by decide
theorem test_wf_refuses_mode : (CmdFields.mk 0 1 0x04).wf = false ∧ (CmdFields.mk 0 1 0x04).modeOk = false := by decide
theorem test_wf_refuses_op : (CmdFields.mk 0 0 0x08).wf = false ∧ (CmdFields.mk 0 0 0x12).opOk = false := by decide
theorem test_wf_accepts : (CmdFields.mk 0 0 0x07).wf = true ∧ (CmdFields.mk 0 15 0x11).wf = true := by decide

/-! ### Decoding: every constructor's word, from the table of R304 -/

/-- Bit 31 first: RSVD, MODE, OP (R300). -/
theorem test_decode_bits :
    decode 0b00000000000000000000000000000000 = .ok .nop ∧
    decode 0b00000000000000000000000000000001 = .ok .keyexp ∧
    decode 0b00000000000000000000000000000010 = .ok .encb ∧
    decode 0b00000000000000000000000000000100 = .ok .gfmul ∧
    decode 0b00000000000000000000000000010000 = .ok .msgencCbc ∧
    decode 0b00000000000000000000000100010001 = .ok .msgdecCtr ∧
    decode 0b00000000000000000000001000010000 = .ok .msgenc2 := by decide

theorem test_decode_plain :
    decode 0x00000000 = .ok .nop ∧ decode 0x00000001 = .ok .keyexp ∧ decode 0x00000002 = .ok .encb ∧
    decode 0x00000003 = .ok .decb ∧ decode 0x00000004 = .ok .gfmul ∧ decode 0x00000005 = .ok .gfinv ∧
    decode 0x00000006 = .ok .sbox ∧ decode 0x00000007 = .ok .isbox := by decide

theorem test_decode_message :
    decode 0x00000010 = .ok .msgencCbc ∧ decode 0x00000011 = .ok .msgdecCbc ∧
    decode 0x00000110 = .ok .msgencCtr ∧ decode 0x00000111 = .ok .msgdecCtr := by decide

theorem test_decode_msgenc_badmode :
    decode 0x00000210 = .ok .msgenc2 ∧ decode 0x00000310 = .ok .msgenc3 ∧ decode 0x00000410 = .ok .msgenc4 ∧
    decode 0x00000510 = .ok .msgenc5 ∧ decode 0x00000610 = .ok .msgenc6 ∧ decode 0x00000710 = .ok .msgenc7 ∧
    decode 0x00000810 = .ok .msgenc8 ∧ decode 0x00000910 = .ok .msgenc9 ∧ decode 0x00000a10 = .ok .msgenc10 ∧
    decode 0x00000b10 = .ok .msgenc11 ∧ decode 0x00000c10 = .ok .msgenc12 ∧ decode 0x00000d10 = .ok .msgenc13 ∧
    decode 0x00000e10 = .ok .msgenc14 ∧ decode 0x00000f10 = .ok .msgenc15 := by decide

theorem test_decode_msgdec_badmode :
    decode 0x00000211 = .ok .msgdec2 ∧ decode 0x00000311 = .ok .msgdec3 ∧ decode 0x00000411 = .ok .msgdec4 ∧
    decode 0x00000511 = .ok .msgdec5 ∧ decode 0x00000611 = .ok .msgdec6 ∧ decode 0x00000711 = .ok .msgdec7 ∧
    decode 0x00000811 = .ok .msgdec8 ∧ decode 0x00000911 = .ok .msgdec9 ∧ decode 0x00000a11 = .ok .msgdec10 ∧
    decode 0x00000b11 = .ok .msgdec11 ∧ decode 0x00000c11 = .ok .msgdec12 ∧ decode 0x00000d11 = .ok .msgdec13 ∧
    decode 0x00000e11 = .ok .msgdec14 ∧ decode 0x00000f11 = .ok .msgdec15 := by decide

/-- The ILLEGAL rows of section 2.2 of 95_test_vectors.md. -/
theorem test_decode_illegal :
    decode 0x00000008 = .error .opUnknown ∧ decode 0x0000000f = .error .opUnknown ∧
    decode 0x00000012 = .error .opUnknown ∧ decode 0x000000ff = .error .opUnknown ∧
    decode 0x00000100 = .error .modeNonzero ∧ decode 0x00000104 = .error .modeNonzero ∧
    decode 0x00001000 = .error .rsvdNonzero ∧ decode 0x00001110 = .error .rsvdNonzero ∧
    decode 0x80000002 = .error .rsvdNonzero ∧ decode 0xffffffff = .error .rsvdNonzero := by decide

theorem test_table_word :
    decodeTableWord 32 0x111 = some .msgdecCtr ∧ decodeTableWord 32 0x8 = none := by decide

/-! ### Single steps on the vectors of 95_test_vectors.md -/

/-- The next state of an outcome, if there is one. -/
def nextOf (o : Host.Outcome State Fault Refusal) : Option State :=
  match o with
  | .next t => some t
  | .fault _ => none
  | .refused _ => none

/-- A 16-byte key in KEY[0..15], the rest 0. -/
def key128 (k : Block) : KeyReg := k ++ (0 : BitVec 128)

/-- The key 2b7e..., KEYLEN 16. -/
def keyed : State :=
  { State.reset with key := key128 0x2b7e151628aed2a6abf7158809cf4f3c, keylen := 16 }

/-- `keyed` with an IV and a message in IN. -/
def withMessage (iv : Block) (m : List Byte) : State :=
  { keyed with
    iv := iv, ivlen := 16, msglen := BitVec.ofNat 17 m.length, mem := memWriteBytes [] 0x10000 m
    blkin := 0x00112233445566778899aabbccddeeff, blklen := 16 }

/-- The IV 000102... and the message "abc". -/
def abc : State := withMessage 0x000102030405060708090a0b0c0d0e0f [0x61, 0x62, 0x63]

/-- `keyed` after KEYEXP: a schedule is cached. -/
def cached : State :=
  { abc with rk := (expand keyed.key 16).rk, ksNr := 10, ksvalid := true }

/-- The step that runs a command word, from a state. -/
def run (w : Word) (s : State) : Option State := nextOf (step (issueNow w s))

/-- STATUS, OUTLEN, CHAIN and OUT[0 .. OUTLEN-1] after a command. -/
def report (w : Word) (s : State) : Option (Word × BitVec 17 × Block × Option (List Byte)) :=
  (run w s).map fun t => (statusWord t, t.outlen, t.chain, memReadBytes t.mem 0x20000 t.outlen.toNat)

/-- The command fails: STATUS is as given, and OUTLEN and CHAIN read 0. -/
def failsWith (w : Word) (s : State) (status : Word) : Bool :=
  (run w s).any fun t => statusWord t == status && t.outlen == 0 && t.chain == 0 && t.mem == s.mem

/-- STATUS and BLKOUT after a command. -/
def reportBlock (w : Word) (s : State) : Option (Word × Block) :=
  (run w s).map fun t => (statusWord t, t.blkout)

/-- STATUS and GFP after a command with operands. -/
def reportField (w : Word) (a b : Byte) : Option (Word × Byte) :=
  (run w { State.reset with gfa := a, gfb := b }).map fun t => (statusWord t, t.gfp)

/-- R408: with STATUS = 0x00000106, NOP leaves STATUS = 0x00000002. -/
theorem test_nop_clears_error :
    (run 0x0 { State.reset with done := true, err := true, errcode := 1 }).map statusWord = some 0x00000002 := by
  decide +kernel

/-- Section 2.2: an ILLEGAL word from power-on, and that OUTLEN keeps its value. -/
theorem test_illegal_word :
    (run 0x00001010 { State.reset with outlen := 5 }).map (fun t => (statusWord t, t.outlen)) = some (0x00000606, 5) := by
  decide +kernel

/-- Section 2.3. -/
theorem test_gfmul_product : reportField 0x4 0x57 0x83 = some (0x00000002, 0xc1) := by decide +kernel
theorem test_gfmul_reduces : reportField 0x4 0x80 0x02 = some (0x00000002, 0x1b) := by decide +kernel
theorem test_gfinv_value : reportField 0x5 0x53 0x00 = some (0x00000002, 0xca) := by decide +kernel
theorem test_gfinv_zero : reportField 0x5 0x00 0xff = some (0x00000002, 0x00) := by decide +kernel
theorem test_sbox_value : reportField 0x6 0x53 0x00 = some (0x00000002, 0xed) := by decide +kernel
theorem test_sbox_last : reportField 0x6 0xff 0x00 = some (0x00000002, 0x16) := by decide +kernel
theorem test_isbox_value : reportField 0x7 0xed 0x00 = some (0x00000002, 0x53) := by decide +kernel
theorem test_isbox_zero : reportField 0x7 0x00 0x00 = some (0x00000002, 0x52) := by decide +kernel

/-- R510, R512: RK[1], RK[10] and STATUS after KEYEXP. -/
theorem test_keyexp_schedule :
    (run 0x1 keyed).map (fun t => (statusWord t, t.rk.toList.getD 1 0, t.rk.toList.getD 10 0, t.rk.toList.getD 11 1)) =
      some (0x000a000a, 0xa0fafe1788542cb123a339392a6c7605, 0xd014f9a8c9ee2589e13f0cc8b6630ca6, 0) := by
  decide +kernel

/-- V2: KEYLEN = 15. -/
theorem test_keyexp_invalid_length :
    (run 0x1 { keyed with keylen := 15 }).map (fun t => (statusWord t, t.rk)) =
      some (0x00000106, Vector.replicate 15 0) := by decide +kernel

/-- Section 2.5, FIPS-197 Appendix C.3. -/
theorem test_encb_256 :
    reportBlock 0x2 { State.reset with
      key := 0x000102030405060708090a0b0c0d0e0f101112131415161718191a1b1c1d1e1f, keylen := 32
      blkin := 0x00112233445566778899aabbccddeeff, blklen := 16 } =
      some (0x000e000a, 0x8ea2b7ca516745bfeafc49904b496089) := by decide +kernel

/-- Section 2.5: the key check comes before the block check, and a cached schedule survives a failure. -/
theorem test_encb_checks :
    reportBlock 0x2 { State.reset with keylen := 15, blklen := 0 } = some (0x00000106, 0) ∧
    reportBlock 0x2 { cached with blklen := 0 } = some (0x000a030e, 0) := by decide +kernel

/-- Section 2.5, FIPS-197 Appendix C.2. -/
theorem test_decb_192 :
    reportBlock 0x3 { State.reset with
      key := 0x000102030405060708090a0b0c0d0e0f10111213141516170000000000000000, keylen := 24
      blkin := 0xdda97ca4864cdfe06eaf70a0ec0d7191, blklen := 16 } =
      some (0x000c000a, 0x00112233445566778899aabbccddeeff) := by decide +kernel

/-- Section 2.5: BLKLEN = 17. -/
theorem test_decb_block_length : reportBlock 0x3 { abc with blklen := 17 } = some (0x00000306, 0) := by decide +kernel

/-- Section 2.6, row 1. -/
theorem test_msgenc_cbc :
    report 0x10 (withMessage 0x000102030405060708090a0b0c0d0e0f (blockBytes 0x6bc1bee22e409f96e93d7e117393172a)) =
      some (0x000a000a, 32, 0x8964e0b149c10b7b682e6e39aaeb731c,
        some (blockBytes 0x7649abac8119b246cee98e9b12e9197d ++ blockBytes 0x8964e0b149c10b7b682e6e39aaeb731c)) := by
  decide +kernel

/-- Section 2.6, rows 22, 23 and 29: the order of the checks. -/
theorem test_msgenc_cbc_checks :
    failsWith 0x10 { abc with keylen := 15, ivlen := 0 } 0x00000106 = true ∧
    failsWith 0x10 { abc with ivlen := 15, msglen := 131071 } 0x00000206 = true ∧
    failsWith 0x10 { abc with msglen := 4096 } 0x00000706 = true := by decide +kernel

/-- Section 2.6, row 7. -/
theorem test_msgdec_cbc :
    report 0x11 (withMessage 0x000102030405060708090a0b0c0d0e0f (blockBytes 0xf327e7290b9b923d29d949db2c9f75cc)) =
      some (0x000a000a, 3, 0xf327e7290b9b923d29d949db2c9f75cc, some [0x61, 0x62, 0x63]) := by decide +kernel

/-- V3, row 3 (a pad byte differs), and section 2.6, row 25. -/
theorem test_msgdec_cbc_checks :
    failsWith 0x11 (withMessage 0x000102030405060708090a0b0c0d0e0f (blockBytes 0xa04b53df222e06c12d17e450676c82a4)) 0x00000406 = true ∧
    failsWith 0x11 { abc with msglen := 0 } 0x00000306 = true := by decide +kernel

/-- V5: the counter wraps, and a partial last block uses the first keystream bytes. -/
theorem test_msgenc_ctr_wraps :
    report 0x110 (withMessage 0xffffffffffffffffffffffffffffffff (List.replicate 40 0)) =
      some (0x000a000a, 40, 2, some (blockBytes 0x8af2860142f786f409307c1a3f7eaaac ++
        blockBytes 0x7df76b0c1ab899b33e42f047b91b546f ++ (blockBytes 0x57127d4034b1bebf0000000000000000).take 8)) := by
  decide +kernel

/-- Section 2.6, row 16: the empty message succeeds and CHAIN = IV. -/
theorem test_msgenc_ctr_empty :
    report 0x110 (withMessage 0xf0f1f2f3f4f5f6f7f8f9fafbfcfdfeff []) =
      some (0x000a000a, 0, 0xf0f1f2f3f4f5f6f7f8f9fafbfcfdfeff, some []) := by decide +kernel

/-- R711. -/
theorem test_msgdec_ctr :
    report 0x111 (withMessage 0xf0f1f2f3f4f5f6f7f8f9fafbfcfdfeff (blockBytes 0x874d6191b620e3261bef6864990db6ce)) =
      some (0x000a000a, 16, 0xf0f1f2f3f4f5f6f7f8f9fafbfcfdff00, some (blockBytes 0x6bc1bee22e409f96e93d7e117393172a)) := by
  decide +kernel

/-- R824: MSGLEN reaches one byte past the written ones. -/
theorem test_msgdec_ctr_uninit :
    step (issueNow 0x111 { abc with msglen := 4 }) = .fault .uninitRead ∧
    (run 0x111 abc).isSome = true := by
  constructor
  · rfl
  · decide +kernel

/-- Section 2.6: BADMODE words report 5 before the key is looked at, and clear OUTLEN. -/
theorem test_badmode :
    (run 0x00000210 { State.reset with keylen := 15, outlen := 16 }).map (fun t => (statusWord t, t.outlen)) =
      some (0x00000506, 0) ∧
    (run 0x00000f11 { cached with outlen := 16 }).map (fun t => (statusWord t, t.outlen)) = some (0x000a050e, 0) := by
  decide +kernel

/-- Section 2.1, rows 1 to 6. -/
theorem test_port_reads :
    (hostRead 0x000 State.reset).resp = some ⟨false, some 0x41455301⟩ ∧
    (hostRead 0x02C State.reset).resp = some ⟨false, some 0x00001000⟩ ∧
    (hostRead 0x030 State.reset).resp = some ⟨false, some 0⟩ ∧
    (hostRead 0x1F0 State.reset).resp = some ⟨false, some 0⟩ ∧
    (hostRead 0x002 State.reset).resp = some ⟨true, some 0⟩ := by decide +kernel

/-- Section 2.1, rows 7, 8, 13 and 14. -/
theorem test_port_writes :
    (hostWrite 0x00C 0x00000050 State.reset).keylen = 16 ∧
    (hostWrite 0x018 0xFFFFFFFF State.reset).msglen = 0x1ffff ∧
    keyWord (hostWrite 0x041 0xAABBCCDD (hostWrite 0x040 0x01020304 State.reset)).key 0 = 0x01020304 ∧
    memReadBytes (hostWrite 0x10000 0xDEADBEEF State.reset).mem 0x10000 4 = some [0xde, 0xad, 0xbe, 0xef] := by
  decide +kernel

/-- Section 2.1, the busy port. -/
theorem test_port_busy :
    (hostRead 0x008 (issue 0x2 cached)).resp = some ⟨false, some 0x000a0009⟩ ∧
    (hostRead 0x00C (issue 0x2 cached)).resp = some ⟨false, some 0⟩ ∧
    (hostRead 0x100 (issue 0x2 cached)).resp = some ⟨false, some 0⟩ ∧
    hostWrite 0x00C 24 (issue 0x2 cached) = { issue 0x2 cached with resp := some ⟨false, none⟩ } := by decide +kernel

/-- Section 2.1, the RK window. -/
theorem test_port_rk :
    (hostRead 0x10c cached).resp = some ⟨false, some 0x09cf4f3c⟩ ∧
    (hostRead 0x19c cached).resp = some ⟨false, some 0x575c006e⟩ ∧
    (hostRead 0x1ec cached).resp = some ⟨false, some 0⟩ := by decide +kernel

/-- Section 2.7: IN keeps its bytes over a reset, and a pending command leaves no trace. -/
theorem test_reset_keeps_in :
    memReadBytes (assertReset abc).mem 0x10000 3 = some [0x61, 0x62, 0x63] ∧
    statusWord (assertReset (issue 0x2 cached)) = 0 ∧ (assertReset (issue 0x2 cached)).pending = none := by
  decide +kernel

/-! ### Witnesses: a state and operands that meet the hypotheses of each statement -/

/-- A command that goes on to a state with a property, found by evaluation. -/
theorem next_of (o : Host.Outcome State Fault Refusal) (p : State → Bool) (h : (nextOf o).any p = true) :
    ∃ t, o = .next t ∧ p t = true := by
  cases o with
  | next t => exact ⟨t, rfl, by simpa [nextOf] using h⟩
  | fault r => simp [nextOf] at h
  | refused r => simp [nextOf] at h

/-- The schedule of `abc`. -/
def sched : Schedule := expand abc.key 16

theorem test_sched_abc : HasSchedule abc sched ∧ abc.ivlen = 16 ∧ abc.blklen = 16 :=
  ⟨.inr ⟨rfl, .inl rfl, rfl⟩, rfl, rfl⟩

theorem test_sched_cached : HasSchedule cached { rk := cached.rk, nr := cached.ksNr } := .inl ⟨rfl, rfl⟩

theorem test_sched_24_32 :
    HasSchedule { abc with keylen := 24 } (expand abc.key 24) ∧ HasSchedule { abc with keylen := 32 } (expand abc.key 32) :=
  ⟨.inr ⟨rfl, .inr (.inl rfl), rfl⟩, .inr ⟨rfl, .inr (.inr rfl), rfl⟩⟩

theorem test_sched_none :
    NoSchedule State.reset ∧ NoSchedule { abc with keylen := 15 } ∧ NoSchedule { abc with keylen := 17 } ∧
    NoSchedule { abc with keylen := 33 } ∧ NoSchedule { abc with keylen := 63 } := by decide

theorem test_holds_abc : HoldsMessage abc [0x61, 0x62, 0x63] ∧ HoldsMessage State.reset [] := by decide +kernel

/-- For IllegalWordsCompleteWithIllegalCommand. -/
theorem test_witness_illegal :
    decode 0x00001000 = .error .rsvdNonzero ∧ decode 0x00000107 = .error .modeNonzero ∧
    decode 0x00000012 = .error .opUnknown ∧ State.reset.busy = false ∧ (issue 0x00001000 State.reset).pending = some 0x00001000 := by
  decide

/-- For StepRunsTheDecodedInstruction, StepTakesTheNextEvent and ExecuteLeavesTheEngineIdle. -/
theorem test_witness_step :
    (issueNow 0x0 State.reset).pending = some 0x0 ∧ nextEvent (issueNow 0x0 State.reset) = .engine ∧
    nextEvent (issue 0x0 State.reset) = .engine ∧ decode 0x0 = .ok .nop ∧ State.reset.pending = none := by decide

theorem test_witness_engine_turn :
    ∃ t, engineTurn (issue 0x0 State.reset) = .next t ∧ (issue 0x0 State.reset).pending = some 0x0 :=
  ⟨_, rfl, rfl⟩

/-- For StepTakesTheNextEvent: an agenda with each event at its head. -/
theorem test_witness_agenda :
    ({ State.reset with agenda := [.access (.read 0x008), .engine] } : State).agenda = .access (.read 0x008) :: [.engine] ∧
    ({ State.reset with agenda := [.reset] } : State).agenda = .reset :: [] ∧
    ({ State.reset with agenda := [.powerOn] } : State).agenda = .powerOn :: [] ∧
    ({ State.reset with agenda := [.engine] } : State).agenda = .engine :: [] := by decide

/-- For CmdWriteIssuesTheCommand and the statements about the busy and the idle port. -/
theorem test_witness_busy : (issue 0x2 abc).busy = true ∧ abc.busy = false := by decide

/-- For the invariants: a busy state, a failed one and one with a cached schedule, each with a next step. -/
theorem test_witness_invariants :
    (LifecycleInv (issue 0x2 abc) ∧ ∃ t, step (issue 0x2 abc) = .next t) ∧
    (ErrorInv { State.reset with done := true, err := true, errcode := 7 } ∧
      ∃ t, step { State.reset with done := true, err := true, errcode := 7 } = .next t) ∧
    (CacheInv cached ∧ cached.ksvalid = true ∧ ∃ t, step cached = .next t) ∧
    (MemoryInv abc ∧ ∃ t, step { abc with agenda := [.access (.write 0x10000 0x01020304)] } = .next t) := by
  refine ⟨⟨by decide, _, rfl⟩, ⟨by decide, _, rfl⟩, ⟨?_, rfl, _, rfl⟩, ⟨by decide +kernel, _, rfl⟩⟩
  decide +kernel

/-- For PendingCommandRunsOnItsInputs: two accesses, and none. -/
theorem test_witness_pending :
    let two : State := { issue 0x2 abc with agenda := [.access (.read 0x008), .access (.write 0x080 5), .engine, .reset] }
    let none_ : State := { issue 0x2 abc with agenda := [.engine] }
    (two.busy = true ∧ two.pending = some 0x2 ∧
      two.agenda = [Access.read 0x008, .write 0x080 5].map Event.access ++ .engine :: [.reset]) ∧
    (none_.busy = true ∧ none_.pending = some 0x2 ∧ none_.agenda = ([] : List Access).map Event.access ++ .engine :: []) := by
  decide

/-- For WrittenInputNeverStops. -/
theorem test_witness_input_written :
    InputWritten { issue 0x110 abc with agenda := [.engine] } ∧ InputWritten State.reset := by decide +kernel

/-- For GfinvResult and InverseIsUnique. -/
theorem test_witness_nonzero : (0x01 : Byte) ≠ 0x00 ∧ (0xff : Byte) ≠ 0x00 ∧ gmul 0x53 0xca = 0x01 := by decide +kernel

/-- For RotWordSubWordAndRcon, RoundStepsByBytes, MixColumnsEquations and InvMixColumnsUndoesMixColumns: the ends of the index ranges. -/
theorem test_witness_indices : 0 < 4 ∧ 3 < 4 ∧ 1 ≤ 1 ∧ ¬ (4 < 4) := by decide

/-- For ExpansionFollowsTheRecurrence and KeyBytesPastKeylenAreIgnored: two keys that differ from byte 16 on. -/
theorem test_witness_key_bytes :
    (∀ i, i < 16 → keyByte (key128 0x2b7e151628aed2a6abf7158809cf4f3c) i =
      keyByte (0x2b7e151628aed2a6abf7158809cf4f3cff000000000000000000000000000000 : KeyReg) i) ∧
    keyByte (key128 0x2b7e151628aed2a6abf7158809cf4f3c) 16 ≠
      keyByte (0x2b7e151628aed2a6abf7158809cf4f3cff000000000000000000000000000000 : KeyReg) 16 ∧
    (∀ i, i < 24 → keyByte (0 : KeyReg) i = keyByte (1 : KeyReg) i) ∧
    ∀ i, i < 32 → keyByte (7 : KeyReg) i = keyByte (7 : KeyReg) i := by decide +kernel

/-- For NopResult: a word with OP 0x00 that is not NOP. -/
theorem test_witness_not_nop :
    (0x00000100 : Word).extractLsb' 0 8 = 0x00 ∧ (0x00000100 : Word) ≠ 0x00000000 ∧
    (0x80000000 : Word).extractLsb' 0 8 = 0x00 := by decide

/-- For KeyexpResult: each legal KEYLEN, and its neighbours. -/
theorem test_witness_keylen :
    keyed.keylen = 16 ∧ ({ keyed with keylen := 24 } : State).keylen = 24 ∧ ({ keyed with keylen := 32 } : State).keylen = 32 ∧
    ((15 : BitVec 6) ≠ 16 ∧ (15 : BitVec 6) ≠ 24 ∧ (15 : BitVec 6) ≠ 32) ∧
    ((33 : BitVec 6) ≠ 16 ∧ (33 : BitVec 6) ≠ 24 ∧ (33 : BitVec 6) ≠ 32) ∧
    ((0 : BitVec 6) ≠ 16 ∧ (0 : BitVec 6) ≠ 24 ∧ (0 : BitVec 6) ≠ 32) := by decide

/-- For EncbAndDecbResult: the block length's boundary, with a schedule. -/
theorem test_witness_blklen :
    HasSchedule abc sched ∧ ({ abc with blklen := 15 } : State).blklen ≠ 16 ∧
    ({ abc with blklen := 17 } : State).blklen ≠ 16 ∧ abc.blklen = 16 :=
  ⟨test_sched_abc.1, by decide, by decide, rfl⟩

/-- `abc` after ENCB, and that state with BLKOUT copied into BLKIN: for EncbThenDecbRestoresTheBlock. -/
def encrypted : State := (nextOf (exec .encb abc)).getD abc

def copied : State := { encrypted with blkin := encrypted.blkout }

theorem test_witness_encb_decb :
    exec .encb abc = .next encrypted ∧ encrypted.errcode = 0 ∧ copied.blkin = encrypted.blkout ∧
    copied.blklen = encrypted.blklen ∧ copied.ksvalid = encrypted.ksvalid ∧ copied.rk = encrypted.rk ∧
    copied.ksNr = encrypted.ksNr := ⟨rfl, rfl, rfl, rfl, rfl, rfl, rfl⟩

/-- For PadAndUnpad: the last byte 0, 1, 16 and 17, and one of the pad bytes wrong. -/
theorem test_witness_unpad :
    (∀ b : Byte, (List.replicate 16 b).length % 16 = 0 ∧ (List.replicate 16 b).getLast? = some b) ∧
    unpad (List.replicate 16 0) = none ∧ unpad (List.replicate 16 17) = none ∧
    unpad (List.replicate 16 16) = some [] ∧ (unpad (List.replicate 16 1)).isSome = true ∧
    unpad (List.replicate 13 0 ++ [3, 2, 3]) = none := by
  refine ⟨fun b => ⟨by simp, by simp⟩, ?_⟩
  decide +kernel

/-- For CbcBlockEquations and CtrCounterAndOutput: the first and the last index. -/
theorem test_witness_block_index :
    0 < [(5 : Block), 6].length ∧ 1 < [(5 : Block), 6].length ∧ 16 < (List.replicate 17 (0 : Byte)).length := by decide

/-- For CbcBlockEquations: strings of whole blocks. -/
theorem test_witness_whole_blocks :
    ([] : List Byte).length = 16 * 0 ∧ (List.replicate 32 (7 : Byte)).length = 16 * 2 ∧ 1 < 2 ∧ 15 < 16 := by decide

/-- For KeystreamBlocksAreDistinct: the least and the greatest count of blocks. -/
theorem test_witness_keystream :
    (2 ≤ 2 ^ 128 ∧ 0 < 2 ∧ 1 < 2 ∧ 0 ≠ 1) ∧ (2 ^ 128 ≤ 2 ^ 128 ∧ 2 ^ 128 - 1 < 2 ^ 128 ∧ 2 ^ 128 - 1 ≠ 0) := by decide

/-- For the results of the message commands: each check's boundary (IVLEN 15 and 17, MSGLEN 4095, 4096 and 4097). -/
theorem test_witness_message_checks :
    ({ abc with ivlen := 15 } : State).ivlen ≠ 16 ∧ ({ abc with ivlen := 17 } : State).ivlen ≠ 16 ∧
    abc.cfg.msgbufBytes = 4096 ∧ (4096 : Nat) < (4097 : BitVec 17).toNat ∧
    4096 < 16 * ((4096 : BitVec 17).toNat / 16 + 1) ∧ 16 * ((4095 : BitVec 17).toNat / 16 + 1) ≤ 4096 ∧
    (4096 : BitVec 17).toNat ≤ 4096 ∧ (15 : BitVec 17).toNat % 16 ≠ 0 ∧ (17 : BitVec 17).toNat % 16 ≠ 0 := by decide

/-- For MsgencCbcResult and CtrCommandsResult: "abc" and the empty message pass every check. -/
theorem test_witness_message :
    HasSchedule abc sched ∧ HasSchedule { abc with msglen := 0 } sched ∧ abc.ivlen = 16 ∧
    16 * (abc.msglen.toNat / 16 + 1) ≤ abc.cfg.msgbufBytes ∧ HoldsMessage abc [0x61, 0x62, 0x63] ∧
    HoldsMessage { abc with msglen := 0 } [] :=
  ⟨test_sched_abc.1, .inr ⟨rfl, .inl rfl, rfl⟩, rfl, by decide, test_holds_abc.1, by decide⟩

/-- A ciphertext block in IN: of "abc" with its padding, or of a block that ends in 0 (V3, row 1). -/
def ciphertext (b : Block) : State := withMessage 0x000102030405060708090a0b0c0d0e0f (blockBytes b)

/-- For MsgdecCbcResult: a message that passes every check, with good padding and with bad. -/
theorem test_witness_msgdec_cbc :
    HasSchedule (ciphertext 0xf327e7290b9b923d29d949db2c9f75cc) sched ∧
    (ciphertext 0xf327e7290b9b923d29d949db2c9f75cc).msglen.toNat = 16 ∧
    HoldsMessage (ciphertext 0xf327e7290b9b923d29d949db2c9f75cc) (blockBytes 0xf327e7290b9b923d29d949db2c9f75cc) ∧
    HoldsMessage (ciphertext 0x50fe67cc996d32b6da0937e99bafec60) (blockBytes 0x50fe67cc996d32b6da0937e99bafec60) ∧
    unpad (bytesOf (cbcDecrypt (invCipher sched) abc.iv (blocksOf 1 (blockBytes 0xf327e7290b9b923d29d949db2c9f75cc)))) =
      some [0x61, 0x62, 0x63] ∧
    unpad (bytesOf (cbcDecrypt (invCipher sched) abc.iv (blocksOf 1 (blockBytes 0x50fe67cc996d32b6da0937e99bafec60)))) =
      none := by
  refine ⟨.inr ⟨rfl, .inl rfl, rfl⟩, ?_⟩
  decide +kernel

/-- For BadModeResult: the least and the greatest unsupported MODE, and a command of each list. -/
theorem test_witness_badmode :
    2 ≤ (2 : BitVec 4).toNat ∧ 2 ≤ (15 : BitVec 4).toNat ∧ ¬ 2 ≤ (1 : BitVec 4).toNat ∧
    Instr.msgenc2 ∈ badModeEnc ++ badModeDec ∧ Instr.msgdec15 ∈ badModeEnc ++ badModeDec := by decide

/-- For OnlyUnwrittenInputStopsACommand: a fault, at the first and at the last unwritten byte. -/
theorem test_witness_uninit :
    exec .msgencCtr { abc with msglen := 4 } = .fault .uninitRead ∧
    (∀ i, i ∈ messageCommands → HasSchedule { abc with msglen := 16 } sched ∧
      (i = .msgencCbc → 16 * (16 / 16 + 1) ≤ abc.cfg.msgbufBytes) ∧ (i = .msgdecCbc → 16 % 16 = 0)) ∧
    (16 : BitVec 17).toNat ≤ abc.cfg.msgbufBytes ∧ 3 < (16 : BitVec 17).toNat ∧ 15 < (16 : BitVec 17).toNat ∧
    memRead abc.mem (inBase + 3) = none ∧ memRead abc.mem (inBase + 15) = none := by
  refine ⟨rfl, fun i _ => ⟨.inr ⟨rfl, .inl rfl, rfl⟩, fun _ => by decide, fun _ => rfl⟩, ?_⟩
  decide +kernel

/-- For the statements about what commands change: a command of each family that goes on, and failures with and without OUTLEN. -/
theorem test_witness_goes_on :
    (∃ t, exec .nop abc = .next t ∧ decide (t.errcode = 0) = true) ∧
    (∃ t, exec .gfmul abc = .next t ∧ decide (t.errcode = 0) = true) ∧
    (∃ t, exec .keyexp abc = .next t ∧ decide (t.errcode = 0) = true) ∧
    (∃ t, exec .decb cached = .next t ∧ decide (t.errcode = 0) = true) ∧
    (∃ t, exec .msgencCbc abc = .next t ∧ decide (t.errcode = 0) = true) ∧
    (∃ t, exec .msgdecCbc (ciphertext 0xf327e7290b9b923d29d949db2c9f75cc) = .next t ∧ decide (t.errcode = 0) = true) ∧
    (∃ t, exec .msgencCtr abc = .next t ∧ decide (t.errcode = 0) = true) ∧
    (∃ t, exec .msgdecCtr abc = .next t ∧ decide (t.errcode = 0) = true) ∧
    (∃ t, exec .encb State.reset = .next t ∧ decide (t.errcode ≠ 0) = true) ∧
    (∃ t, exec .msgenc7 abc = .next t ∧ decide (t.errcode ≠ 0) = true) := by
  refine ⟨?_, ?_, ?_, ?_, ?_, ?_, ?_, ?_, ?_, ?_⟩ <;> exact next_of _ _ (by decide +kernel)

/-- For MemWriteStoresExactlyItsBytes: inside, at both ends and outside. -/
theorem test_witness_mem_write :
    memRead (memWriteBytes [] 5 [1, 2]) 4 = none ∧ memRead (memWriteBytes [] 5 [1, 2]) 5 = some 1 ∧
    memRead (memWriteBytes [] 5 [1, 2]) 6 = some 2 ∧ memRead (memWriteBytes [] 5 [1, 2]) 7 = none := by decide

/-- For the round trips: "abc" encrypted, and the ciphertext copied into IN. -/
def sent (i : Instr) : State := (nextOf (exec i abc)).getD abc

def received (i : Instr) : State :=
  { sent i with
    mem := memWriteBytes (sent i).mem 0x10000 ((memReadBytes (sent i).mem 0x20000 (sent i).outlen.toNat).getD [])
    msglen := (sent i).outlen }

theorem test_witness_round_trip :
    (sent .msgencCbc).outlen = 16 ∧ (received .msgencCbc).msglen = 16 ∧
    (∀ i, i < 16 → memRead (received .msgencCbc).mem (inBase + i) = memRead (sent .msgencCbc).mem (outBase + i)) ∧
    (sent .msgencCtr).outlen = 3 ∧ (received .msgencCtr).msglen = 3 ∧
    (∀ i, i < 3 → memRead (received .msgencCtr).mem (inBase + i) = memRead (sent .msgencCtr).mem (outBase + i)) ∧
    memRead (sent .msgencCtr).mem outBase ≠ none := by decide +kernel

/-- The other premises of the round trips: the schedule, the IV and the build are those of the sender. -/
theorem test_witness_round_trip_same (i : Instr) :
    (received i).ksvalid = (sent i).ksvalid ∧ (received i).rk = (sent i).rk ∧ (received i).ksNr = (sent i).ksNr ∧
    (received i).iv = (sent i).iv ∧ (received i).ivlen = (sent i).ivlen ∧ (received i).cfg = (sent i).cfg :=
  ⟨rfl, rfl, rfl, rfl, rfl, rfl⟩

/-- For MisalignedAccessIsBusError and the aligned port: the ends of the address space. -/
theorem test_witness_addresses :
    (0x00001 : Addr).toNat % 4 ≠ 0 ∧ (0x3ffff : Addr).toNat % 4 ≠ 0 ∧ (0x00000 : Addr).toNat % 4 = 0 ∧
    (0x3fffc : Addr).toNat % 4 = 0 := by decide

/-- For NarrowRegistersKeepTheirFieldBits: the first and the last entry. -/
theorem test_witness_narrow :
    ((0x00C, 0x3F) : Addr × Word) ∈
      ([(0x00C, 0x3F), (0x010, 0x1F), (0x014, 0x1F), (0x018, 0x1FFFF), (0x020, 0xFF), (0x024, 0xFF)] : List (Addr × Word)) ∧
    ((0x024, 0xFF) : Addr × Word) ∈
      ([(0x00C, 0x3F), (0x010, 0x1F), (0x014, 0x1F), (0x018, 0x1FFFF), (0x020, 0xFF), (0x024, 0xFF)] : List (Addr × Word)) := by
  decide

/-- For DataWordsReadBackBigEndian and BufferReadsShowWrittenBytes: the first and last words of each range, of
an idle engine, and the words where the ranges meet. -/
theorem test_witness_data_words :
    abc.busy = false ∧
    (0x040 ≤ (0x040 : Addr).toNat ∧ (0x05c : Addr).toNat < 0x060) ∧
    (0x060 ≤ (0x060 : Addr).toNat ∧ (0x06c : Addr).toNat < 0x070) ∧ ¬ (0x060 : Addr).toNat < 0x060 ∧
    (0x080 ≤ (0x080 : Addr).toNat ∧ (0x08c : Addr).toNat < 0x090) ∧
    inBuffer abc.cfg (0x10000 : Addr).toNat = true ∧ inBuffer abc.cfg (0x10ffc : Addr).toNat = true ∧
    inBuffer abc.cfg (0x11000 : Addr).toNat = false ∧ outBuffer abc.cfg (0x20000 : Addr).toNat = true ∧
    outBuffer abc.cfg (0x20ffc : Addr).toNat = true ∧ outBuffer abc.cfg (0x21000 : Addr).toNat = false := by decide

/-- R201: the lanes of a word written to the last word of KEY and to the second word of IV. -/
theorem test_port_lanes :
    keyByte (hostWrite 0x05C 0x01020304 State.reset).key 28 = 0x01 ∧
    keyByte (hostWrite 0x05C 0x01020304 State.reset).key 31 = 0x04 ∧
    blockByte (hostWrite 0x064 0x01020304 State.reset).iv 4 = 0x01 ∧
    blockByte (hostWrite 0x064 0x01020304 State.reset).iv 8 = 0x00 := by decide +kernel

/-- For the idle reads of ReadOnlyAndReservedAddresses and StatusWordFields: the ends of each range. -/
theorem test_witness_special_reads :
    cached.busy = false ∧ targetOf cached.cfg 0x004 = .cmd ∧ targetOf cached.cfg 0x01C = .outlen ∧
    targetOf cached.cfg 0x028 = .gfp ∧ targetOf cached.cfg 0x02C = .bufsize ∧
    targetOf cached.cfg 0x070 = .chain 0 ∧ targetOf cached.cfg 0x07C = .chain 3 ∧
    targetOf cached.cfg 0x090 = .blkout 0 ∧ targetOf cached.cfg 0x09C = .blkout 3 ∧
    HostReads { cached with cmd := 0x1 } 0x004 0x1 ∧
    HostReads { cached with chain := 5 } 0x07C 5 ∧ HostReads { cached with blkout := 7 } 0x09C 7 := by decide +kernel

/-- For BufferReadsShowWrittenBytes: a written byte, an unwritten one, and the draw of a free value. -/
theorem test_witness_buffer_read :
    memRead abc.mem 0x10002 = some 0x63 ∧ memRead abc.mem 0x10003 = none ∧
    (hostRead 0x10000 abc).freeCount = 1 ∧
    (hostRead 0x10000 (hostWrite 0x10000 0x61626300 abc)).freeCount = 0 := by decide +kernel

/-- For KeyWritesClearKsvalid: the ends of its ranges and their neighbours. -/
theorem test_witness_ksvalid :
    (hostWrite 0x00C 16 cached).ksvalid = false ∧ (hostWrite 0x040 0 cached).ksvalid = false ∧
    (hostWrite 0x05C 0 cached).ksvalid = false ∧ (hostWrite 0x060 0 cached).ksvalid = true ∧
    (hostWrite 0x03C 0 cached).ksvalid = true ∧ (hostWrite 0x041 0 cached).ksvalid = true := by decide +kernel

/-- For ReadOnlyAndReservedAddresses: the ends of its ranges, which are disjoint from the writable ones. -/
theorem test_witness_reserved :
    targetOf abc.cfg 0x030 = .reserved ∧ targetOf abc.cfg 0x03C = .reserved ∧ targetOf abc.cfg 0x040 = .key 0 ∧
    targetOf abc.cfg 0x0A0 = .reserved ∧ targetOf abc.cfg 0x0FC = .reserved ∧ targetOf abc.cfg 0x100 = .rk 0 0 ∧
    targetOf abc.cfg 0x1EC = .rk 14 3 ∧ targetOf abc.cfg 0x1F0 = .reserved ∧ targetOf abc.cfg 0xFFFC = .reserved ∧
    targetOf abc.cfg 0x11000 = .reserved ∧ targetOf abc.cfg 0x1FFFC = .reserved ∧
    targetOf abc.cfg 0x21000 = .reserved ∧ targetOf abc.cfg 0x3FFFC = .reserved ∧
    targetOf ⟨4095⟩ 0x1FFFC = .inBuf ∧ targetOf ⟨4095⟩ 0x20000 = .outBuf := by decide

/-- For AfterResetReadsAndFailures: the commands that need a key. -/
theorem test_witness_key_users : Instr.keyexp ∈ keyUsers ∧ Instr.msgdecCtr ∈ keyUsers ∧ Instr.nop ∉ keyUsers := by decide

end Sys2Proof.Tests
end

/-! The host port by the kind of target: which writes touch KSVALID, which addresses ignore a write, and what
the read-only and reserved addresses read (R132, R134, R135). -/

namespace Sys2Proof.Machine

/-! ### Writes -/

/-- A misaligned write does nothing but answer (R202). -/
theorem hostWrite_misaligned (a : Addr) (v : Word) (s : State) (h : a.toNat % 4 ≠ 0) :
    hostWrite a v s = { s with resp := some { busError := true, rdata := none } } := by
  simp [hostWrite, misaligned_eq, h]

/-- An aligned write to the busy engine does nothing but answer (R212). -/
theorem hostWrite_busy (a : Addr) (v : Word) (s : State) (h : a.toNat % 4 = 0) (hb : s.busy = true) :
    hostWrite a v s = { s with resp := some { busError := false, rdata := none } } := by
  simp [hostWrite, misaligned_eq, h, hb]

/-- The targets that hold the key of a cached schedule: KEYLEN and the words of KEY (R132). -/
def Target.holdsKey : Target → Bool
  | .keylen | .key _ => true
  | _ => false

/-- KEYLEN and KEY stand at 0x00C and from 0x040 to 0x05C (R103). -/
theorem holdsKey_targetOf_iff (c : Config) (a : Nat) (h : a % 4 = 0) :
    (targetOf c a).holdsKey = true ↔ a = 0x00C ∨ (0x040 ≤ a ∧ a ≤ 0x05C) := by
  have hat := targetOf_standsAt c a h
  generalize targetOf c a = t at hat
  cases t <;>
    (simp only [Target.standsAt, Target.holdsKey, Bool.false_eq_true, false_iff, true_iff] at hat ⊢; omega)

/-- A write of a target clears KSVALID exactly where the target holds the key (R132). -/
theorem writeTarget_ksvalid (a : Nat) (v : Word) (s : State) :
    (writeTarget a v s).ksvalid = if (targetOf s.cfg a).holdsKey then false else s.ksvalid := by
  unfold writeTarget
  cases targetOf s.cfg a <;> rfl

/-- Settles O55: an access that is not accepted only answers, and an accepted one writes its target. -/
theorem keyWritesClearKsvalid : Obligations.KeyWritesClearKsvalid := by
  intro a v s
  rw [hostAccess]
  by_cases ha : a.toNat % 4 = 0
  · cases hb : s.busy with
    | true => simp [hostWrite_busy a v s ha hb]
    | false =>
      rw [hostWrite_idle a v s ha hb]
      simp only [writeTarget_ksvalid, holdsKey_targetOf_iff _ _ ha, ha, true_and]
  · simp [hostWrite_misaligned a v s ha, ha]

/-- The read-only registers and buffer of R134, and the reserved words of R135. -/
def Target.ignoresWrites : Target → Bool
  | .id | .status | .outlen | .gfp | .bufsize | .chain _ | .blkout _ | .rk _ _ | .outBuf | .reserved => true
  | _ => false

theorem writeTarget_of_ignoresWrites (a : Nat) (v : Word) (s : State)
    (h : (targetOf s.cfg a).ignoresWrites = true) : writeTarget a v s = s := by
  unfold writeTarget
  revert h
  cases targetOf s.cfg a <;> simp [Target.ignoresWrites]

/-- An aligned write to an address whose target ignores it does nothing but answer without BusError,
busy or idle (R134, R135, R212). -/
theorem hostWrite_of_ignoresWrites (a : Addr) (v : Word) (s : State) (t : Target) (ha : a.toNat % 4 = 0)
    (hat : t.standsAt s.cfg a.toNat) (ht : t.ignoresWrites = true) :
    hostWrite a v s = { s with resp := some { busError := false, rdata := none } } := by
  rcases Bool.eq_false_or_eq_true s.busy with hb | hb
  · exact hostWrite_busy a v s ha hb
  · have hkeep : writeTarget a.toNat v s = s :=
      writeTarget_of_ignoresWrites _ v s (targetOf_eq _ _ ha t hat ▸ ht)
    rw [hostWrite_idle a v s ha hb, hkeep]

/-! ### Reads -/

/-- Busy or idle, a reserved word reads 0 (R135, R212). -/
theorem readData_reserved (s : State) (a : Nat) (h : targetOf s.cfg a = .reserved) : readData s a = 0 := by
  simp [readData, readTarget, h]

/-- No reserved address lies in IN or OUT, so a read of one draws no free value (R135, R209). -/
theorem drawsFree_reserved (s : State) (a : Nat) (h : Target.standsAt s.cfg a .reserved) :
    drawsFree s a = false := by
  have hsize := msgbufBytes_bounds s.cfg
  have hbuf : isBufferWord s.cfg a = false := by
    rw [isBufferWord, Bool.or_eq_false_iff, ← Bool.not_eq_true, ← Bool.not_eq_true, inBuffer_iff, outBuffer_iff]
    simp only [Target.standsAt] at h
    omega
  simp [drawsFree, hbuf]

/-- An aligned read of a reserved address changes nothing and is answered with 0, busy or idle (R135). -/
theorem hostRead_reserved (a : Addr) (s : State) (ha : a.toNat % 4 = 0)
    (h : Target.standsAt s.cfg a.toNat .reserved) :
    hostRead a s = { s with resp := some { busError := false, rdata := some 0 } } := by
  simp [hostRead, misaligned_eq, ha, drawsFree_reserved s _ h,
    readData_reserved s _ (targetOf_eq _ _ ha .reserved h)]

/-- The idle engine answers an aligned read with the value of the target that stands there (R103). -/
theorem hostReads_of_standsAt (a : Addr) (s : State) (w : Word) (t : Target) (ha : a.toNat % 4 = 0)
    (hb : s.busy = false) (hat : t.standsAt s.cfg a.toNat)
    (hw : targetOf s.cfg a.toNat = t → readTarget s a.toNat = w) : HostReads s a w :=
  hw (targetOf_eq _ _ ha t hat) ▸ hostReads_idle a s ha hb

/-- The bytes of the block's word at an aligned offset are the block's bytes from that offset on (R201). -/
theorem wordByte_blockWord_div (b : Block) (d i : Nat) (hd : d < 16) (h4 : d % 4 = 0) (hi : i < 4) :
    wordByte (blockWord b (d / 4)) i = blockByte b (d + i) := by
  rw [wordByte_blockWord b _ i (by omega) hi, Nat.mul_div_cancel' (Nat.dvd_of_mod_eq_zero h4)]

/-- The round-key RAM has an entry for each j below 15 (R127). -/
theorem roundKeys_getElem?_eq_getD (rk : Vector Block 15) (j : Nat) (hj : j < 15) :
    rk.toList[j]? = some (rk.toList.getD j 0) := by
  simp [List.getD_eq_getElem?_getD, hj]

/-- Settles O56: each range of its addresses is where one target of the map stands, and that target
ignores writes and has the value named. -/
theorem readOnlyAndReservedAddresses : Obligations.ReadOnlyAndReservedAddresses := by
  intro a v s ha n size reserved readOnly
  have ignored (t : Target) (hat : t.standsAt s.cfg n) (ht : t.ignoresWrites = true) :
      ∃ d, hostAccess (.write a v) s = { s with resp := some { busError := false, rdata := d } } :=
    ⟨none, hostWrite_of_ignoresWrites a v s t ha hat ht⟩
  refine ⟨?writes, fun h => hostRead_reserved a s ha h,
    fun hb => ⟨?id, ?outlen, ?gfp, ?bufsize, ?chain, ?blkout, ?rk⟩⟩
  case writes =>
    rintro (h | h | h | h | h | h | ⟨h, h'⟩ | ⟨h, h'⟩ | ⟨h, h'⟩ | h)
    · exact ignored .reserved h rfl
    · exact ignored .id h rfl
    · exact ignored .status h rfl
    · exact ignored .outlen h rfl
    · exact ignored .gfp h rfl
    · exact ignored .bufsize h rfl
    · exact ignored (.chain _) ⟨h, h', rfl⟩ rfl
    · exact ignored (.blkout _) ⟨h, h', rfl⟩ rfl
    · exact ignored (.rk _ _) ⟨h, h', rfl, rfl⟩ rfl
    · exact ignored .outBuf h rfl
  case id => exact fun h => hostReads_of_standsAt a s _ .id ha hb h fun e => by rw [readTarget, e]; rfl
  case outlen => exact fun h => hostReads_of_standsAt a s _ .outlen ha hb h fun e => by rw [readTarget, e]
  case gfp => exact fun h => hostReads_of_standsAt a s _ .gfp ha hb h fun e => by rw [readTarget, e]
  case bufsize => exact fun h => hostReads_of_standsAt a s _ .bufsize ha hb h fun e => by rw [readTarget, e]
  case chain =>
    exact fun ⟨hlo, hhi⟩ => ⟨blockWord s.chain ((n - 0x070) / 4),
      hostReads_of_standsAt a s _ (.chain _) ha hb ⟨hlo, hhi, rfl⟩ fun e => by rw [readTarget, e],
      fun i hi => wordByte_blockWord_div _ _ i (by omega) (by omega) hi⟩
  case blkout =>
    exact fun ⟨hlo, hhi⟩ => ⟨blockWord s.blkout ((n - 0x090) / 4),
      hostReads_of_standsAt a s _ (.blkout _) ha hb ⟨hlo, hhi, rfl⟩ fun e => by rw [readTarget, e],
      fun i hi => wordByte_blockWord_div _ _ i (by omega) (by omega) hi⟩
  case rk =>
    exact fun ⟨hlo, hhi⟩ => ⟨blockWord (s.rk.toList.getD ((n - 0x100) / 16) 0) ((n - 0x100) % 16 / 4), _,
      hostReads_of_standsAt a s _ (.rk _ _) ha hb ⟨hlo, hhi, rfl, rfl⟩ fun e => by rw [readTarget, e],
      roundKeys_getElem?_eq_getD _ _ (by omega),
      fun i hi => wordByte_blockWord_div _ _ i (by omega) (by omega) hi⟩

end Sys2Proof.Machine

/-! The host port's guards: a misaligned access only answers (R202), and the busy port shows only ID and
STATUS (R212). -/

namespace Sys2Proof.Machine

/-- A misaligned read does nothing but answer 0 with BusError (R202). -/
theorem hostRead_misaligned (a : Addr) (s : State) (h : a.toNat % 4 ≠ 0) :
    hostRead a s = { s with resp := some { busError := true, rdata := some 0 } } := by
  simp [hostRead, misaligned_eq, h]

/-- Settles O50: the misaligned cases of a read and of a write, in which BUSY plays no part. -/
theorem misalignedAccessIsBusError : Obligations.MisalignedAccessIsBusError :=
  fun a v s h => ⟨hostRead_misaligned a s h, none, hostWrite_misaligned a v s h⟩

/-- While BUSY = 1 only ID and STATUS, at their addresses, have a value to read (R212). -/
theorem readData_busy (s : State) (a : Nat) (h : a % 4 = 0) (hb : s.busy = true) :
    readData s a = if a = 0x000 then idWord else if a = 0x008 then statusWord s else 0 := by
  rw [readData, if_pos hb]
  by_cases hid : a = 0x000
  · rw [targetOf_eq s.cfg a h .id hid, if_pos hid]
  by_cases hstatus : a = 0x008
  · rw [targetOf_eq s.cfg a h .status hstatus, if_neg hid, if_pos hstatus]
  have hat := targetOf_standsAt s.cfg a h
  rw [if_neg hid, if_neg hstatus]
  split
  next e => rw [e] at hat; exact absurd hat hid
  next e => rw [e] at hat; exact absurd hat hstatus
  next => rfl

/-- The busy engine draws no free value: it lets no read reach a buffer (R209, R212). -/
theorem drawsFree_busy (s : State) (a : Nat) (hb : s.busy = true) : drawsFree s a = false := by
  simp [drawsFree, hb]

/-- An aligned read of the busy engine changes nothing and shows only ID and STATUS (R212). -/
theorem hostRead_busy (a : Addr) (s : State) (h : a.toNat % 4 = 0) (hb : s.busy = true) :
    hostRead a s = { s with
      resp := some ⟨false, some (if a = 0x000 then idWord else if a = 0x008 then statusWord s else 0)⟩ } := by
  have hid : a.toNat = 0x000 ↔ a = 0x000 := BitVec.toNat_inj (y := 0x000)
  have hstatus : a.toNat = 0x008 ↔ a = 0x008 := BitVec.toNat_inj (y := 0x008)
  simp [hostRead, misaligned_eq, h, drawsFree_busy s _ hb, readData_busy s _ h hb, hid, hstatus]

/-- Settles O51: the aligned accesses by the busy port's two rules, the misaligned ones as when idle. -/
theorem busyPortShowsOnlyIdAndStatus : Obligations.BusyPortShowsOnlyIdAndStatus :=
  fun a v s hb => ⟨fun h => ⟨hostRead_busy a s h hb, none, hostWrite_busy a v s h hb⟩,
    misalignedAccessIsBusError a v s⟩

end Sys2Proof.Machine

/-! The illegal command words: the grounds on which the decoder rejects a word (R306), what CMD does with any
word, and how the engine completes a rejected one (R401, R807). -/

namespace Sys2Proof

/-! ### The decoder's rejections -/

/-- An OP outside the message operations is unknown exactly when it is above 0x07 (R304, R306). -/
theorem decodePlain_rejects_iff (op : BitVec 8) : (∃ r, decodePlain op = .error r) ↔ ¬ op ≤ 0x07 := by
  have hle : op ≤ 0x07 ↔ op.toNat ≤ 7 := BitVec.le_def
  rw [hle, decodePlain]
  split
  case h_9 => exact ⟨fun _ _ => by interval_cases op.toNat <;> contradiction, fun _ => ⟨_, rfl⟩⟩
  all_goals exact ⟨nofun, fun h => by omega⟩

/-- The grounds of R306 on the fields of a word, by the verdicts of R305 in their order. -/
theorem decodeFields_rejects_iff (f : CmdFields) :
    (∃ r, decodeFields f = .error r) ↔
      f.rsvd ≠ 0 ∨ ¬ (f.op ≤ 0x07 ∨ f.op = 0x10 ∨ f.op = 0x11) ∨ (f.op ≤ 0x07 ∧ f.mode ≠ 0) := by
  unfold decodeFields
  by_cases hrsvd : f.rsvd = 0
  case neg => exact iff_of_true ⟨.rsvdNonzero, if_pos hrsvd⟩ (.inl hrsvd)
  by_cases henc : f.op = 0x10
  case pos => simp [hrsvd, henc]
  by_cases hdec : f.op = 0x11
  case pos => simp [hrsvd, hdec]
  rw [if_neg (not_not.mpr hrsvd), if_neg henc, if_neg hdec]
  by_cases hmode : f.mode = 0
  case pos =>
    rw [if_neg (not_not.mpr hmode), decodePlain_rejects_iff]
    simp only [ne_eq, hrsvd, henc, hdec, hmode, not_true_eq_false, and_false, or_false, false_or]
  case neg =>
    rw [if_pos hmode]
    refine iff_of_true ⟨_, rfl⟩ (.inr ?_)
    simpa only [henc, hdec, or_false, ne_eq, hmode, not_false_eq_true, and_true] using (em _).symm

end Sys2Proof

namespace Sys2Proof.Machine

/-! ### Issue and completion -/

/-- A write to CMD of the idle engine issues the word, whatever it is, and is answered (R401). -/
theorem hostWrite_cmd_idle (v : Word) (s : State) (hb : s.busy = false) :
    hostWrite 0x004 v s = { issue v s with resp := some { busError := false, rdata := none } } := by
  have hcmd : targetOf s.cfg (0x004 : Addr).toNat = .cmd := targetOf_eq _ _ rfl .cmd rfl
  rw [hostWrite_idle 0x004 v s rfl hb, writeTarget, hcmd]

/-- The engine completes a rejected word with IllegalCommand, whatever the ground (R306, R807). -/
theorem engineTurn_of_rejected (w : Word) (r : Reject) (s : State) (hw : s.pending = some w)
    (hr : decode w = .error r) : engineTurn s = .next (complete .illegalCommand s) := by
  simp only [engineTurn, hw, executeWord, hr]

/-- Settles O3: the decoder's grounds, the issue that CMD does for any word, and the completion. -/
theorem illegalWordsCompleteWithIllegalCommand : Obligations.IllegalWordsCompleteWithIllegalCommand := by
  refine fun w => ⟨decodeFields_rejects_iff (fieldsOf w), fun r s hr => ⟨fun hb => ?issue, fun hw => ?complete⟩⟩
  case issue =>
    rw [hostWrite_cmd_idle w s hb]
    exact ⟨issue_busy w s, issue_pending w s, issue_cmd w s⟩
  case complete => exact engineTurn_of_rejected w r s hw hr

end Sys2Proof.Machine

/-! The engine's lifecycle at the level of one command: the issue by a write to CMD (R401), the completion
(R404), and NOP, the command that does nothing else (R408). -/

namespace Sys2Proof

/-! ### A word and its fields -/

/-- The three fields of R300 cover the word. -/
@[simp] theorem wordOf_fieldsOf (w : Word) : wordOf (fieldsOf w) = w := by
  have hhigh : w.extractLsb' 12 20 ++ w.extractLsb' 8 4 = w.extractLsb' 8 24 :=
    BitVec.extractLsb'_append_extractLsb'_eq_extractLsb' rfl
  have hall : w.extractLsb' 8 24 ++ w.extractLsb' 0 8 = w.extractLsb' 0 32 :=
    BitVec.extractLsb'_append_extractLsb'_eq_extractLsb' rfl
  calc wordOf (fieldsOf w) = w.extractLsb' 12 20 ++ w.extractLsb' 8 4 ++ w.extractLsb' 0 8 := rfl
    _ = w.extractLsb' 0 32 := by rw [hhigh, hall]
    _ = w := BitVec.extractLsb'_eq_self

/-- A word other than 0 whose OP is 0x00 has a bit of RSVD or of MODE set (R300). -/
theorem rsvd_or_mode_ne_zero (w : Word) (hop : (fieldsOf w).op = 0) (hw : w ≠ 0) :
    (fieldsOf w).rsvd ≠ 0 ∨ (fieldsOf w).mode ≠ 0 := by
  by_contra! ⟨hrsvd, hmode⟩
  apply hw
  calc w = wordOf (fieldsOf w) := (wordOf_fieldsOf w).symm
    _ = wordOf ⟨0, 0, 0⟩ := by rw [← hrsvd, ← hmode, ← hop]
    _ = 0 := rfl

end Sys2Proof

namespace Sys2Proof.Machine

/-- `complete(code)` as one record: the status bits and `pending`, and nothing else (R404). -/
theorem complete_eq (c : Code) (s : State) : complete c s =
    { s with
      busy := false, done := true, err := decide (codeBits c ≠ 0), errcode := codeBits c, pending := none } := by
  have herr : (codeBits c != 0) = decide (codeBits c ≠ 0) := by cases c <;> rfl
  rw [← herr]
  rfl

/-- Settles O7: the record of `complete`, and the codes of R801 row by row. -/
theorem completeWritesStatusAndPending : Obligations.CompleteWritesStatusAndPending :=
  ⟨complete_eq, rfl, rfl, rfl, rfl, rfl, rfl, rfl, rfl⟩

/-- Settles O6: the issue by the idle engine's write to CMD, and the busy port's answer. -/
theorem cmdWriteIssuesTheCommand : Obligations.CmdWriteIssuesTheCommand :=
  fun v s => ⟨fun hb => ⟨_, hostWrite_cmd_idle v s hb⟩, fun hb => ⟨_, hostWrite_busy 0x004 v s rfl hb⟩⟩

/-- NOP completes with Success and does nothing else (R408). -/
theorem exec_nop (s : State) : exec .nop s = .next (complete .success s) := rfl

/-- Settles O15: the word of NOP is the one with all three fields 0, and NOP only completes. -/
theorem nopResult : Obligations.NopResult := by
  refine ⟨Laws.DecodeEncode.nop.1, fun w hop hw => ?illegal, fun s => ?effect⟩
  case illegal =>
    rw [decode, decodeFields_rejects_iff]
    have hplain : (fieldsOf w).op ≤ 0x07 := by rw [show (fieldsOf w).op = 0 from hop]; decide
    exact (rsvd_or_mode_ne_zero w hop hw).imp_right fun hmode => .inr ⟨hplain, hmode⟩
  case effect =>
    rw [exec_nop, complete_eq]
    rfl

end Sys2Proof.Machine

/-! GF(2^8) and the field commands (41_gf_sbox.md). XOR is the field's addition (R431) and the product is linear
over it in each operand, so a law of the product holds for all bytes once it holds for the eight bytes of one bit. -/

namespace Sys2Proof.Machine

/-! ### Functions linear over XOR -/

/-- `f` keeps the field's addition (R431). -/
def XorLinear (f : Byte → Byte) : Prop :=
  ∀ a b, f (a ^^^ b) = f a ^^^ f b

/-- A byte is the sum of its bits (R430). -/
theorem byte_eq_sum_of_bits : ∀ a : Byte,
    a = (List.range 8).foldr (fun i p => (if a.getLsbD i then 1#8 <<< i else 0) ^^^ p) 0 := by
  decide +kernel

theorem XorLinear.map_zero {f : Byte → Byte} (hf : XorLinear f) : f 0 = 0 := by
  have h := hf 0 0
  rwa [BitVec.xor_self, BitVec.xor_self] at h

/-- Linear functions that agree on the eight bytes of one bit agree on every byte. -/
theorem XorLinear.ext {f g : Byte → Byte} (hf : XorLinear f) (hg : XorLinear g)
    (bits : ∀ i < 8, f (1#8 <<< i) = g (1#8 <<< i)) (a : Byte) : f a = g a := by
  rw [byte_eq_sum_of_bits a]
  refine List.foldrRecOn (motive := fun p => f p = g p) _ _ (hf.map_zero.trans hg.map_zero.symm)
    fun p hp i hi => ?_
  rw [hf, hg, hp]
  split
  · rw [bits i (List.mem_range.mp hi)]
  · rw [hf.map_zero, hg.map_zero]

theorem XorLinear.comp {f g : Byte → Byte} (hf : XorLinear f) (hg : XorLinear g) : XorLinear (f ∘ g) :=
  fun a b => (congrArg f (hg a b)).trans (hf _ _)

theorem XorLinear.iterate {f : Byte → Byte} (hf : XorLinear f) : ∀ n, XorLinear f^[n]
  | 0 => fun _ _ => rfl
  | n + 1 => (hf.iterate n).comp hf

/-! ### Linearity of the product -/

theorem ite_bit_xor (c d : Bool) (v : Byte) :
    (if c ^^ d then v else 0) = (if c then v else 0) ^^^ (if d then v else 0) := by
  cases c <;> cases d <;> simp

theorem ite_byte_xor (c : Bool) (v w : Byte) :
    (if c then v ^^^ w else 0) = (if c then v else 0) ^^^ (if c then w else 0) := by
  cases c <;> simp

theorem xorLinear_xtime : XorLinear xtime := by
  intro a b
  simp only [xtime, BitVec.shiftLeft_xor_distrib, BitVec.getLsbD_xor, ite_bit_xor]
  ac_rfl

/-- One round of the loop of R433 adds `a` times bit `i` of `b` and doubles `a`. -/
theorem gmulLoop_succ (b : Byte) (n i : Nat) (a p : Byte) :
    gmulLoop b (n + 1) i a p = gmulLoop b n (i + 1) (xtime a) (p ^^^ if b.getLsbD i then a else 0) := by
  rw [gmulLoop]
  split <;> simp

theorem gmulLoop_xor_left (b : Byte) (n i : Nat) (a a' p p' : Byte) :
    gmulLoop b n i (a ^^^ a') (p ^^^ p') = gmulLoop b n i a p ^^^ gmulLoop b n i a' p' := by
  induction n generalizing i a a' p p' with
  | zero => rfl
  | succ n ih =>
    simp only [gmulLoop_succ, xorLinear_xtime a a', ite_byte_xor, ← ih]
    ac_rfl

theorem gmulLoop_xor_right (b b' : Byte) (n i : Nat) (a p p' : Byte) :
    gmulLoop (b ^^^ b') n i a (p ^^^ p') = gmulLoop b n i a p ^^^ gmulLoop b' n i a p' := by
  induction n generalizing i a p p' with
  | zero => rfl
  | succ n ih =>
    simp only [gmulLoop_succ, BitVec.getLsbD_xor, ite_bit_xor, ← ih]
    ac_rfl

/-- The product distributes over the sum in its left operand (R433). -/
theorem xorLinear_gmul_left (b : Byte) : XorLinear (gmul · b) :=
  fun a a' => gmulLoop_xor_left b 8 0 a a' 0 0

/-- The product distributes over the sum in its right operand (R433). -/
theorem xorLinear_gmul_right (a : Byte) : XorLinear (gmul a) :=
  fun b b' => gmulLoop_xor_right b b' 8 0 a 0 0

/-! ### The laws of the product -/

@[simp] theorem gmul_zero (a : Byte) : gmul a 0 = 0 := (xorLinear_gmul_right a).map_zero

@[simp] theorem zero_gmul (b : Byte) : gmul 0 b = 0 := (xorLinear_gmul_left b).map_zero

@[simp] theorem gmul_one (a : Byte) : gmul a 1 = a := by simp [gmul, gmulLoop]

theorem gmul_two (a : Byte) : gmul a 2 = xtime a := by simp [gmul, gmulLoop]

theorem gmul_comm_of_bits : ∀ i < 8, ∀ j < 8,
    gmul (1#8 <<< i) (1#8 <<< j) = gmul (1#8 <<< j) (1#8 <<< i) := by
  decide +kernel

/-- The product is commutative (R433). -/
theorem gmul_comm (a b : Byte) : gmul a b = gmul b a := by
  refine (xorLinear_gmul_left b).ext (xorLinear_gmul_right b) (fun i hi => ?_) a
  exact (xorLinear_gmul_right _).ext (xorLinear_gmul_left _) (fun j hj => gmul_comm_of_bits i hi j hj) b

theorem gmul_assoc_of_bits : ∀ i < 8, ∀ j < 8, ∀ k < 8,
    gmul (gmul (1#8 <<< i) (1#8 <<< j)) (1#8 <<< k) = gmul (1#8 <<< i) (gmul (1#8 <<< j) (1#8 <<< k)) := by
  decide +kernel

/-- The product is associative (R433). -/
theorem gmul_assoc (a b c : Byte) : gmul (gmul a b) c = gmul a (gmul b c) := by
  refine ((xorLinear_gmul_left c).comp (xorLinear_gmul_left b)).ext (xorLinear_gmul_left _) (fun i hi => ?_) a
  refine ((xorLinear_gmul_left c).comp (xorLinear_gmul_right _)).ext
    ((xorLinear_gmul_right _).comp (xorLinear_gmul_left c)) (fun j hj => ?_) b
  exact (xorLinear_gmul_right _).ext ((xorLinear_gmul_right _).comp (xorLinear_gmul_right _))
    (fun k hk => gmul_assoc_of_bits i hi j hj k hk) c

@[simp] theorem one_gmul (a : Byte) : gmul 1 a = a := by rw [gmul_comm, gmul_one]

/-! ### The inverse -/

/-- The square of a byte under `(x)`. -/
def gsquare (a : Byte) : Byte :=
  gmul a a

/-- Squaring is linear: the mixed products cancel (R431, R433). -/
theorem xorLinear_gsquare : XorLinear gsquare := by
  intro a b
  calc gmul (a ^^^ b) (a ^^^ b)
      = gmul a (a ^^^ b) ^^^ gmul b (a ^^^ b) := xorLinear_gmul_left _ a b
    _ = gmul a a ^^^ gmul a b ^^^ (gmul a b ^^^ gmul b b) := by
        rw [xorLinear_gmul_right a, xorLinear_gmul_right b, gmul_comm b a]
    _ = gmul a a ^^^ gmul b b := by
        rw [BitVec.xor_assoc, ← BitVec.xor_assoc (gmul a b), BitVec.xor_self, BitVec.zero_xor]

theorem gsquare_iterate_eight_of_bits : ∀ i < 8, gsquare^[8] (1#8 <<< i) = 1#8 <<< i := by
  decide +kernel

/-- Every byte is its own power 2^8. -/
theorem gsquare_iterate_eight (a : Byte) : gsquare^[8] a = a :=
  (xorLinear_gsquare.iterate 8).ext (g := id) (fun _ _ => rfl) gsquare_iterate_eight_of_bits a

theorem gpow_succ_odd (bits : Nat) (a : Byte) (n : Nat) :
    gpow (bits + 1) a (2 * n + 1) = gmul a (gpow bits (gsquare a) n) := by
  rw [gpow, if_pos (by omega), show (2 * n + 1) / 2 = n by omega, gsquare]

theorem gpow_succ_even (bits : Nat) (a : Byte) (n : Nat) :
    gpow (bits + 1) a (2 * n) = gpow bits (gsquare a) n := by
  rw [gpow, if_neg (by omega), show 2 * n / 2 = n by omega, gsquare]

/-- `a` times its power 2^bits - 1 is its power 2^bits (R435). -/
theorem gmul_gpow_all_ones (bits : Nat) (a : Byte) :
    gmul a (gpow bits a (2 ^ bits - 1)) = gsquare^[bits] a := by
  induction bits generalizing a with
  | zero => exact gmul_one a
  | succ bits ih =>
    have hodd : 2 ^ (bits + 1) - 1 = 2 * (2 ^ bits - 1) + 1 := by
      have := Nat.one_le_two_pow (n := bits)
      omega
    calc gmul a (gpow (bits + 1) a (2 ^ (bits + 1) - 1))
        = gmul (gsquare a) (gpow bits (gsquare a) (2 ^ bits - 1)) := by
          rw [hodd, gpow_succ_odd, ← gmul_assoc, gsquare]
      _ = gsquare^[bits + 1] a := by rw [ih, ← Function.iterate_succ_apply]

/-- The power 254 of R435 is the power 127 of the square. -/
theorem ginv_eq_gpow_gsquare (a : Byte) : ginv a = gpow 7 (gsquare a) (2 ^ 7 - 1) := by
  rw [ginv, show 254 = 2 * (2 ^ 7 - 1) by rfl, gpow_succ_even]

/-- The square of a byte times its power 254 is its power 256, the byte itself. -/
theorem gmul_gmul_ginv (a : Byte) : gmul a (gmul a (ginv a)) = a :=
  calc gmul a (gmul a (ginv a)) = gmul (gsquare a) (ginv a) := (gmul_assoc a a (ginv a)).symm
    _ = gsquare^[8] a := by rw [ginv_eq_gpow_gsquare, gmul_gpow_all_ones, ← Function.iterate_succ_apply]
    _ = a := gsquare_iterate_eight a

/-- Every nonzero byte has an inverse, which the S-box ROM holds under the affine transform (R437). -/
theorem gmul_affineInv_sbox : ∀ a : Byte, a ≠ 0 → gmul a (affineInv (sbox a)) = 1 := by
  decide +kernel

theorem gmul_left_cancel {a b c : Byte} (ha : a ≠ 0) (h : gmul a b = gmul a c) : b = c := by
  have hundo (x : Byte) : gmul (affineInv (sbox a)) (gmul a x) = x := by
    rw [← gmul_assoc, gmul_comm _ a, gmul_affineInv_sbox a ha, one_gmul]
  rw [← hundo b, h, hundo]

/-- The power 254 is the inverse of every nonzero byte (R435). -/
theorem gmul_ginv (a : Byte) (ha : a ≠ 0) : gmul a (ginv a) = 1 :=
  gmul_left_cancel ha (by rw [gmul_gmul_ginv, gmul_one])

@[simp] theorem ginv_zero : ginv 0 = 0 := by decide +kernel

theorem ginv_ne_zero {a : Byte} (ha : a ≠ 0) : ginv a ≠ 0 := by
  intro h
  have hone := gmul_ginv a ha
  rw [h, gmul_zero] at hone
  exact absurd hone (by decide)

/-- Taking the inverse twice gives the byte back, 0x00 included (R435). -/
@[simp] theorem ginv_ginv (a : Byte) : ginv (ginv a) = a := by
  by_cases ha : a = 0
  · rw [ha, ginv_zero, ginv_zero]
  · apply gmul_left_cancel (ginv_ne_zero ha)
    rw [gmul_ginv _ (ginv_ne_zero ha), gmul_comm, gmul_ginv a ha]

/-! ### The ROMs -/

@[simp] theorem affine_affineInv : ∀ b : Byte, affine (affineInv b) = b := by
  decide +kernel

@[simp] theorem invSbox_sbox : ∀ x : Byte, invSbox (sbox x) = x := by
  decide +kernel

@[simp] theorem sbox_invSbox : ∀ y : Byte, sbox (invSbox y) = y := by
  decide +kernel

/-- SBOX has no fixed point and no complemented one (R437). -/
theorem sbox_ne_self_and_ne_complement : ∀ x : Byte, sbox x ≠ x ∧ sbox x ≠ x ^^^ 0xff := by
  decide +kernel

theorem ginv_eq_affineInv_sbox (x : Byte) : ginv x = affineInv (sbox x) := by
  by_cases hx : x = 0
  · subst hx; decide +kernel
  · exact gmul_left_cancel hx (by rw [gmul_ginv x hx, gmul_affineInv_sbox x hx])

/-- The S-box ROM holds the affine transform of the inverse (R437). -/
theorem sbox_eq_affine_ginv (x : Byte) : sbox x = affine (ginv x) := by
  rw [ginv_eq_affineInv_sbox, affine_affineInv]

/-- The inverse S-box ROM holds the inverse of the inverse affine transform (R438). -/
theorem invSbox_eq_ginv_affineInv (y : Byte) : invSbox y = ginv (affineInv y) :=
  calc invSbox y = ginv (ginv (invSbox y)) := (ginv_ginv _).symm
    _ = ginv (affineInv y) := by rw [ginv_eq_affineInv_sbox (invSbox y), sbox_invSbox]

/-- Settles O22: the two tables' forms, and the ROMs read through each other. -/
theorem sboxRomsAreTheAesTables : Obligations.SboxRomsAreTheAesTables := fun x =>
  ⟨sbox_eq_affine_ginv x, invSbox_eq_ginv_affineInv x, invSbox_sbox x, sbox_invSbox x,
    sbox_ne_self_and_ne_complement x⟩

/-! ### The field commands -/

/-- A field command's record: GFP takes the value, and the command completes with Success (R443 to R446). -/
theorem finishField_eq (v : Byte) (s : State) : finishField v s =
    { s with gfp := v, busy := false, done := true, err := false, errcode := 0, pending := none } := rfl

theorem exec_gfmul (s : State) : exec .gfmul s = .next (finishField (gmul s.gfa s.gfb) s) := rfl

theorem exec_gfinv (s : State) : exec .gfinv s = .next (finishField (ginv s.gfa) s) := rfl

theorem exec_sbox (s : State) : exec .sbox s = .next (finishField (sbox s.gfa) s) := rfl

theorem exec_isbox (s : State) : exec .isbox s = .next (finishField (invSbox s.gfa) s) := rfl

/-- Settles O16: the corner cases are the laws of the product, and the three products are computed. -/
theorem gfmulResult : Obligations.GfmulResult := by
  refine ⟨Laws.DecodeEncode.gfmul.1, fun s => ?effect, fun a => ?corners, gmul_comm, by decide +kernel⟩
  case effect => rw [exec_gfmul, finishField_eq]
  case corners => exact ⟨gmul_zero a, zero_gmul a, gmul_one a, gmul_two a⟩

/-- Settles O17: the effect of GFINV, three computed inverses, and R435 for every nonzero byte. -/
theorem gfinvResult : Obligations.GfinvResult := by
  refine ⟨Laws.DecodeEncode.gfinv.1, fun s => ?effect, ginv_zero, by decide +kernel, by decide +kernel,
    gmul_ginv⟩
  case effect => rw [exec_gfinv, finishField_eq]

/-- Settles O18: the effects of SBOX and ISBOX, the named entries of the ROMs, and SBOX undone by ISBOX. -/
theorem sboxAndIsboxResult : Obligations.SboxAndIsboxResult := by
  refine ⟨Laws.DecodeEncode.sbox.1, Laws.DecodeEncode.isbox.1, fun s => ?sbox, fun s => ?isbox,
    rfl, rfl, rfl, rfl, rfl, rfl, invSbox_sbox⟩
  case sbox => rw [exec_sbox, finishField_eq]
  case isbox => rw [exec_isbox, finishField_eq]

end Sys2Proof.Machine

/-! The key schedule (42_key_schedule.md): RotWord, SubWord and Rcon by bytes, the expansion as the recurrence of
R505, and the invariant of the cached schedule with the command that writes it (R507 to R511). -/

namespace Sys2Proof.Machine

/-! ### RotWord, SubWord and Rcon -/

@[simp] theorem wordByte_of_ge (w : Word) (i : Nat) (h : 4 ≤ i) : wordByte w i = 0 := by
  simp [wordByte, Nat.not_lt.mpr h]

theorem wordByte_rotWord (w : Word) (i : Nat) (h : i < 4) :
    wordByte (rotWord w) i = wordByte w ((i + 1) % 4) := by
  rw [rotWord, wordByte_wordOfBytes _ _ _ _ i h]
  interval_cases i <;> rfl

theorem wordByte_subWord (w : Word) (i : Nat) (h : i < 4) :
    wordByte (subWord w) i = sbox (wordByte w i) := by
  rw [subWord, wordByte_wordOfBytes _ _ _ _ i h]
  interval_cases i <;> rfl

/-- Rotating a big-endian word left by 8 bits brings each byte one place to the front, and byte 0 to the end. -/
theorem wordByte_rotateLeft_eight (w : Word) (i : Nat) (h : i < 4) :
    wordByte (w.rotateLeft 8) i = wordByte w ((i + 1) % 4) := by
  rw [wordByte, wordByte, if_pos h, if_pos (by omega)]
  ext j hj
  simp only [BitVec.getElem_extractLsb', BitVec.getLsbD_rotateLeft]
  by_cases hlast : i = 3
  · subst hlast
    simp [hj]
  · have hhigh : ¬ 8 * (3 - i) + j < 8 := by omega
    have hword : 8 * (3 - i) + j < 32 := by omega
    have hplace : 8 * (3 - i) + j - 8 = 8 * (3 - (i + 1) % 4) + j := by omega
    simp [hhigh, hword, hplace]

/-- RotWord is a rotation of the word (R502). -/
theorem rotWord_eq_rotateLeft (w : Word) : rotWord w = w.rotateLeft 8 :=
  word_ext _ _ fun i h => (wordByte_rotWord w i h).trans (wordByte_rotateLeft_eight w i h).symm

/-- Byte 0 of a round-constant word is the round constant (R504). -/
theorem wordByte_rcon_zero (j : Nat) : wordByte (rcon j) 0 = rcSucc (j - 1) := by
  rw [rcon, wordByte_wordOfBytes _ _ _ _ 0 (by decide)]
  rfl

/-- Bytes 1 to 3 of a round-constant word are 0 (R504). -/
theorem wordByte_rcon_of_pos (j i : Nat) (h : 1 ≤ i) : wordByte (rcon j) i = 0 := by
  by_cases hi : i < 4
  · rw [rcon, wordByte_wordOfBytes _ _ _ _ i hi]
    interval_cases i <;> rfl
  · exact wordByte_of_ge _ i (by omega)

/-- Settles O23: each clause is the byte lemma of its function. -/
theorem rotWordSubWordAndRcon : Obligations.RotWordSubWordAndRcon := by
  refine ⟨fun w => ⟨rotWord_eq_rotateLeft w, wordByte_rotWord w, wordByte_subWord w⟩, ?first, ?double,
    wordByte_rcon_of_pos⟩
  case first => exact wordByte_rcon_zero 1
  case double =>
    intro j hj
    obtain ⟨j, rfl⟩ := Nat.exists_eq_add_of_le' hj
    rw [wordByte_rcon_zero, wordByte_rcon_zero]
    rfl

/-! ### The expansion -/

/-- Every word of `ws` from index `nk` on is the one that R505 makes of the words before it. -/
def FollowsRecurrence (nk : Nat) (ws : List Word) : Prop :=
  ∀ i, nk ≤ i → i < ws.length →
    ws.getD i 0 = ws.getD (i - nk) 0 ^^^ expandTemp nk i (ws.getD (i - 1) 0)

/-- The next word, the words so far read in their own order (R505). -/
theorem expandNext_eq (nk : Nat) (prev : List Word) (hpos : 0 < nk) (hle : nk ≤ prev.length) :
    expandNext nk prev.length prev =
      prev.reverse.getD (prev.length - nk) 0 ^^^
        expandTemp nk prev.length (prev.reverse.getD (prev.length - 1) 0) := by
  have back (k : Nat) (hk : 0 < k) (hk' : k ≤ prev.length) :
      prev.reverse.getD (prev.length - k) 0 = prev.getD (k - 1) 0 := by
    rw [List.getD_reverse _ (by omega)]
    congr 1
    omega
  rw [expandNext, back nk hpos hle, back 1 one_pos (by omega)]

/-- The recurrence goes on over one more word. -/
theorem FollowsRecurrence.concat {nk : Nat} {ws : List Word} {w : Word} (h : FollowsRecurrence nk ws) (hpos : 0 < nk)
    (hw : w = ws.getD (ws.length - nk) 0 ^^^ expandTemp nk ws.length (ws.getD (ws.length - 1) 0)) :
    FollowsRecurrence nk (ws ++ [w]) := by
  intro i hnk hi
  rw [List.length_append, List.length_singleton] at hi
  rw [List.getD_append _ _ _ (i - nk) (by omega), List.getD_append _ _ _ (i - 1) (by omega)]
  rcases Nat.lt_succ_iff_lt_or_eq.mp hi with hlt | rfl
  · rw [List.getD_append _ _ _ i hlt, h i hnk hlt]
  · rw [← hw, List.getD_append_right _ _ _ _ le_rfl, Nat.sub_self]
    rfl

/-- The loop only adds words: the words so far stay, in their places. -/
theorem suffix_expandLoop (nk n i : Nat) (prev : List Word) : prev <:+ expandLoop nk n i prev := by
  induction n generalizing i prev with
  | zero => exact List.suffix_rfl
  | succ n ih => exact (List.suffix_cons _ prev).trans (ih (i + 1) _)

@[simp] theorem expandLoop_length (nk n i : Nat) (prev : List Word) :
    (expandLoop nk n i prev).length = prev.length + n := by
  induction n generalizing i prev with
  | zero => rfl
  | succ n ih => rw [expandLoop, ih, List.length_cons]; omega

theorem followsRecurrence_expandLoop (nk n : Nat) (prev : List Word) (hpos : 0 < nk) (hle : nk ≤ prev.length)
    (h : FollowsRecurrence nk prev.reverse) :
    FollowsRecurrence nk (expandLoop nk n prev.length prev).reverse := by
  induction n generalizing prev with
  | zero => exact h
  | succ n ih =>
    refine ih (expandNext nk prev.length prev :: prev) (Nat.le_succ_of_le hle) ?_
    rw [List.reverse_cons]
    refine h.concat hpos ?_
    rw [List.length_reverse]
    exact expandNext_eq nk prev hpos hle

@[simp] theorem keyWords_length (key : KeyReg) (nk : Nat) : (keyWords key nk).length = nk := by
  simp [keyWords]

@[simp] theorem expandWords_length (key : KeyReg) (n : Nat) :
    (expandWords key n).length = 4 * (nkOf n + 7) := by
  simp only [expandWords, nrOf, List.length_reverse, expandLoop_length, keyWords_length]
  omega

/-- The expansion begins with the words of the key (R505). -/
theorem keyWords_isPrefix_expandWords (key : KeyReg) (n : Nat) : keyWords key (nkOf n) <+: expandWords key n := by
  rw [expandWords, ← List.reverse_suffix, List.reverse_reverse]
  exact suffix_expandLoop _ _ _ _

theorem expandWords_getD_of_lt (key : KeyReg) (n i : Nat) (h : i < nkOf n) :
    (expandWords key n).getD i 0 = keyWord key i := by
  obtain ⟨rest, hrest⟩ := keyWords_isPrefix_expandWords key n
  rw [← hrest, List.getD_append _ _ _ i (by simpa using h)]
  simp [keyWords, h]

/-- The expansion of a key of at least one word follows the recurrence of R505. -/
theorem followsRecurrence_expandWords (key : KeyReg) (n : Nat) (h : 0 < nkOf n) :
    FollowsRecurrence (nkOf n) (expandWords key n) := by
  have hlen : (keyWords key (nkOf n)).reverse.length = nkOf n := by simp
  have hbase : FollowsRecurrence (nkOf n) (keyWords key (nkOf n)).reverse.reverse := by
    intro i hnk hi
    rw [List.length_reverse, hlen] at hi
    omega
  have hloop := followsRecurrence_expandLoop (nkOf n) (4 * (nrOf n + 1) - nkOf n) _ h hlen.ge hbase
  rwa [hlen] at hloop

/-- Entry `j` of the round-key RAM made from a list of words is its round key `j` (R505). -/
theorem roundKeys_getElem? (ws : List Word) (j : Nat) (h : j < 15) :
    (roundKeys ws).toList[j]? = some (roundKeyOf ws j) := by
  interval_cases j <;> rfl

/-- A round key past the last word is zero (R506). -/
theorem roundKeyOf_of_length_le (ws : List Word) (j : Nat) (h : ws.length ≤ 4 * j) : roundKeyOf ws j = 0 := by
  have past (i : Nat) (hi : 4 * j ≤ i) : ws.getD i 0 = 0 := List.getD_eq_default _ _ (h.trans hi)
  rw [roundKeyOf, past _ le_rfl, past _ (by omega), past _ (by omega), past _ (by omega)]
  rfl

/-- Nr of the three key lengths fits its four bits (R500). -/
theorem expand_nr_toNat (key : KeyReg) (n : Nat) (h : n = 16 ∨ n = 24 ∨ n = 32) :
    (expand key n).nr.toNat = n / 4 + 6 := by
  rcases h with rfl | rfl | rfl <;> rfl

/-- Settles O24, with the words of the model's own expansion. -/
theorem expansionFollowsTheRecurrence : Obligations.ExpansionFollowsTheRecurrence := by
  intro key n hn nk nr
  have hnk : 0 < nkOf n ∧ nkOf n ≤ 8 := by unfold nkOf; omega
  have hlen : (expandWords key n).length = 4 * (nr + 1) := expandWords_length key n
  refine ⟨fun i => (expandWords key n).getD i 0, expandWords_getD_of_lt key n, ?recurrence, ?roundKeys, ?tail,
    expand_nr_toNat key n hn⟩
  case recurrence => exact fun i hi hlt => followsRecurrence_expandWords key n hnk.1 i hi (hlen ▸ hlt)
  case roundKeys => exact fun j hj => roundKeys_getElem? _ j (by unfold nkOf at hnk; omega)
  case tail =>
    intro j hj h15
    rw [expand, roundKeys_getElem? _ j h15, roundKeyOf_of_length_le _ j (by omega)]

/-! ### The cached schedule -/

/-- R511 as one equation: the cached schedule is the expansion of KEY, and KEYLEN is legal. -/
theorem cacheInv_iff (s : State) :
    CacheInv s ↔ (s.ksvalid = true → keylenLegal s = true ∧ cachedSchedule s = expandKey s) := by
  refine imp_congr_right fun _ => ?_
  rw [← keylenLegal_iff, and_congr_right_iff]
  intro hlegal
  have hnr : (expandKey s).nr.toNat = s.keylen.toNat / 4 + 6 := by
    refine expand_nr_toNat _ _ ?_
    rcases (keylenLegal_iff s).mp hlegal with h | h | h <;> simp [h]
  rw [← hnr, BitVec.toNat_inj, and_comm]
  exact iff_of_eq (Schedule.mk.injEq s.rk s.ksNr (expandKey s).rk (expandKey s).nr).symm

/-- The key check of a state with a coherent cache gives the expansion of KEY, cached or not (R508, R511). -/
theorem HasSchedule.eq_expandKey {s : State} {k : Schedule} (hk : HasSchedule s k) (hs : CacheInv s) :
    keylenLegal s = true ∧ k = expandKey s := by
  rcases hk with ⟨hvalid, rfl⟩ | ⟨-, hlegal, rfl⟩
  · exact (cacheInv_iff s).mp hs hvalid
  · exact ⟨(keylenLegal_iff s).mpr hlegal, rfl⟩

/-- Committing the expansion of a legal key makes the cache coherent, whatever it was (R507). -/
theorem cacheInv_commitSchedule (s : State) (h : keylenLegal s = true) :
    CacheInv (commitSchedule (expandKey s) s) :=
  (cacheInv_iff _).mpr fun _ => ⟨h, rfl⟩

/-- A command that commits the schedule its key check gave keeps the cache coherent (R508, R511). -/
theorem HasSchedule.cacheInv_commitSchedule {s : State} {k : Schedule} (hk : HasSchedule s k) (hs : CacheInv s) :
    CacheInv (commitSchedule k s) := by
  obtain ⟨hlegal, rfl⟩ := hk.eq_expandKey hs
  exact Machine.cacheInv_commitSchedule s hlegal

/-- With no schedule cached there is nothing to be coherent. -/
theorem cacheInv_of_not_ksvalid (s : State) (h : s.ksvalid = false) : CacheInv s :=
  fun hvalid => absurd hvalid (by simp [h])

/-- A write of KEY or KEYLEN drops the cached schedule, and no other write reaches what R511 speaks of (R132). -/
theorem cacheInv_writeTarget (s : State) (a : Nat) (v : Word) (hs : CacheInv s) : CacheInv (writeTarget a v s) := by
  cases ht : (targetOf s.cfg a).holdsKey with
  | true => exact cacheInv_of_not_ksvalid _ (by rw [writeTarget_ksvalid, ht]; rfl)
  | false =>
    unfold writeTarget
    cases e : targetOf s.cfg a with
    | keylen | key => rw [e] at ht; cases ht
    | _ => exact hs

/-- Every command keeps the cache coherent: only commands that pass the key check write it (R508, R511). -/
theorem cacheInv_exec (i : Instr) (s t : State) (hs : CacheInv s) (h : exec i s = .next t) : CacheInv t := by
  rcases exec_cases i s t h with ⟨_, -, -, rfl⟩ | ⟨_, -, -, rfl⟩ | ⟨-, rfl⟩ | ⟨-, hlegal, rfl⟩ |
    ⟨-, _, rfl⟩ | ⟨-, k, _, hk, -, rfl⟩ | ⟨-, k, _, _, _, hk, -, -, -, -, rfl⟩
  · exact hs
  · exact hs
  · exact hs
  · exact cacheInv_commitSchedule s hlegal
  · exact hs
  · exact hk.cacheInv_commitSchedule hs
  · exact hk.cacheInv_commitSchedule hs

/-- Settles O10, event by event: KEY and KEYLEN writes and resets drop the cached schedule. -/
theorem cacheInvariantKept : Obligations.CacheInvariantKept :=
  step_keeps CacheInv (fun _ _ _ _ hs => hs) (fun s a v hs _ _ => cacheInv_writeTarget s a v hs)
    (fun s _ => cacheInv_of_not_ksvalid _ (assertReset_ksvalid s))
    (fun s _ => cacheInv_of_not_ksvalid _ (assertReset_ksvalid s))
    (fun _ _ hs _ => hs) (fun i s t _ hs _ h => cacheInv_exec i s t hs h)

/-! ### KEYEXP -/

theorem exec_keyexp (s : State) : exec .keyexp s =
    if keylenLegal s then .next (complete .success (commitSchedule (expandKey s) s))
    else .next (complete .invalidKeyLength s) := rfl

/-- Committing the schedule that is cached changes nothing (R507). -/
theorem commitSchedule_cachedSchedule (s : State) (h : s.ksvalid = true) :
    commitSchedule (cachedSchedule s) s = s := by
  rw [commitSchedule, ← h]
  rfl

/-- Settles O26: the two outcomes of the length check, and the success with a coherent cache. -/
theorem keyexpResult : Obligations.KeyexpResult := by
  refine ⟨Laws.DecodeEncode.keyexp.1, fun s => ⟨fun hlegal => ?success, fun h16 h24 h32 => ?failure,
    fun hs hvalid => ?cached⟩⟩
  case success =>
    rw [exec_keyexp, if_pos ((keylenLegal_iff s).mpr hlegal), complete_eq]
    rfl
  case failure =>
    have hillegal : ¬ keylenLegal s = true := by
      rw [keylenLegal_iff]
      rintro (h | h | h) <;> contradiction
    rw [exec_keyexp, if_neg hillegal, complete_eq]
    rfl
  case cached =>
    obtain ⟨hlegal, hsame⟩ := (cacheInv_iff s).mp hs hvalid
    rw [exec_keyexp, if_pos hlegal, ← hsame, commitSchedule_cachedSchedule s hvalid, complete_eq]
    rfl

end Sys2Proof.Machine

/-! The block cipher (43_block_cipher.md): the round steps by bytes, the matrix of InvMixColumns as the inverse of
that of MixColumns, and the two block commands. A state is decided by its bytes at every row and column (R600). -/

namespace Sys2Proof.Machine

/-! ### AddRoundKey, SubBytes and ShiftRows -/

theorem stateByte_addRoundKey (s k : Block) (r c : Nat) :
    stateByte (addRoundKey s k) r c = stateByte s r c ^^^ blockByte k (r + 4 * c) :=
  blockByte_xor s k (r + 4 * c)

/-- AddRoundKey is its own inverse (R602). -/
@[simp] theorem addRoundKey_addRoundKey (s k : Block) : addRoundKey (addRoundKey s k) k = s := by
  rw [addRoundKey, addRoundKey, BitVec.xor_assoc, BitVec.xor_self, BitVec.xor_zero]

theorem stateByte_subBytes (s : Block) {r c : Nat} (hr : r < 4) (hc : c < 4) :
    stateByte (subBytes s) r c = sbox (stateByte s r c) :=
  stateByte_blockOfState _ r c hr hc

theorem stateByte_invSubBytes (s : Block) {r c : Nat} (hr : r < 4) (hc : c < 4) :
    stateByte (invSubBytes s) r c = invSbox (stateByte s r c) :=
  stateByte_blockOfState _ r c hr hc

/-- InvSubBytes undoes SubBytes (R606). -/
@[simp] theorem invSubBytes_subBytes (s : Block) : invSubBytes (subBytes s) = s :=
  state_ext _ _ fun r c hr hc => by
    rw [stateByte_invSubBytes _ hr hc, stateByte_subBytes _ hr hc, invSbox_sbox]

theorem stateByte_shiftRows (s : Block) {r c : Nat} (hr : r < 4) (hc : c < 4) :
    stateByte (shiftRows s) r c = stateByte s r ((c + r) % 4) :=
  stateByte_blockOfState _ r c hr hc

theorem stateByte_invShiftRows (s : Block) {r c : Nat} (hr : r < 4) (hc : c < 4) :
    stateByte (invShiftRows s) r c = stateByte s r ((c + 4 - r) % 4) :=
  stateByte_blockOfState _ r c hr hc

/-- InvShiftRows rotates row r right by r positions (R607). -/
theorem stateByte_invShiftRows_add (s : Block) {r c : Nat} (hr : r < 4) (hc : c < 4) :
    stateByte (invShiftRows s) r ((c + r) % 4) = stateByte s r c := by
  have hback : ((c + r) % 4 + 4 - r) % 4 = c := by omega
  rw [stateByte_invShiftRows _ hr (by omega), hback]

/-- InvShiftRows undoes ShiftRows (R607). -/
@[simp] theorem invShiftRows_shiftRows (s : Block) : invShiftRows (shiftRows s) = s :=
  state_ext _ _ fun r c hr hc => by
    have hback : ((c + 4 - r) % 4 + r) % 4 = c := by omega
    rw [stateByte_invShiftRows _ hr hc, stateByte_shiftRows _ hr (by omega), hback]

/-- Settles O27: each clause is the byte lemma of its step, or that a step undoes another. -/
theorem roundStepsByBytes : Obligations.RoundStepsByBytes := fun s k r c hr hc =>
  ⟨stateByte_addRoundKey s k r c, stateByte_subBytes s hr hc, stateByte_shiftRows s hr hc,
    stateByte_invSubBytes s hr hc, congrArg (stateByte · r c) (invShiftRows_shiftRows s),
    stateByte_invShiftRows_add s hr hc, addRoundKey_addRoundKey s k, invSubBytes_subBytes s⟩

/-! ### Circulant matrices -/

theorem gmul_xor (a b c : Byte) : gmul a (b ^^^ c) = gmul a b ^^^ gmul a c := xorLinear_gmul_right a b c

theorem xor_gmul (a b c : Byte) : gmul (a ^^^ b) c = gmul a c ^^^ gmul b c := xorLinear_gmul_left c a b

/-- A row of a circulant matrix reads the four bytes of its column. -/
theorem circulantRow_congr (m : Nat → Byte) {a b : Nat → Byte} (h : ∀ j < 4, a j = b j) (r : Nat) :
    circulantRow m a r = circulantRow m b r := by
  simp only [circulantRow, h 0 (by decide), h 1 (by decide), h 2 (by decide), h 3 (by decide)]

/-- Entry `j` of the first row of the product of the circulant matrices with first rows `m` and `n`; the product is
circulant too. -/
def circulantProduct (m n : Nat → Byte) (j : Nat) : Byte :=
  gmul (m 0) (n (j % 4)) ^^^ gmul (m 1) (n ((j + 3) % 4)) ^^^
    gmul (m 2) (n ((j + 2) % 4)) ^^^ gmul (m 3) (n ((j + 1) % 4))

/-- Two circulant matrices applied in turn are their product applied once: the sums are regrouped by the column's
bytes. -/
theorem circulantRow_circulantRow (m n a : Nat → Byte) {r : Nat} (hr : r < 4) :
    circulantRow m (circulantRow n a) r = circulantRow (circulantProduct m n) a r := by
  interval_cases r <;>
    (simp only [circulantRow, circulantProduct, gmul_xor, xor_gmul, gmul_assoc,
      Nat.reduceAdd, Nat.reduceSub, Nat.reduceMod]
     ac_rfl)

/-- The circulant matrix with first row 01 00 00 00 is the identity. -/
theorem circulantRow_of_unit {m : Nat → Byte} (h0 : m 0 = 1) (h1 : m 1 = 0) (h2 : m 2 = 0) (h3 : m 3 = 0)
    (a : Nat → Byte) {r : Nat} (hr : r < 4) : circulantRow m a r = a r := by
  interval_cases r <;>
    (simp only [circulantRow, h0, h1, h2, h3, one_gmul, zero_gmul, Nat.reduceSub, Nat.reduceMod]; simp)

/-- The matrix of InvMixColumns is the inverse of that of MixColumns (R608). -/
theorem circulantRow_invMixRow_mixRow (a : Nat → Byte) {r : Nat} (hr : r < 4) :
    circulantRow invMixRow (circulantRow mixRow a) r = a r := by
  rw [circulantRow_circulantRow _ _ _ hr]
  exact circulantRow_of_unit (by decide) (by decide) (by decide) (by decide) a hr

/-! ### MixColumns -/

theorem stateByte_mixColumns (s : Block) {r c : Nat} (hr : r < 4) (hc : c < 4) :
    stateByte (mixColumns s) r c = circulantRow mixRow (stateByte s · c) r :=
  stateByte_blockOfState _ r c hr hc

theorem stateByte_invMixColumns (s : Block) {r c : Nat} (hr : r < 4) (hc : c < 4) :
    stateByte (invMixColumns s) r c = circulantRow invMixRow (stateByte s · c) r :=
  stateByte_blockOfState _ r c hr hc

theorem two_gmul (a : Byte) : gmul 2 a = xtime a := by rw [gmul_comm, gmul_two]

/-- 03 is 02 + 01 (R605). -/
theorem three_gmul (a : Byte) : gmul 3 a = xtime a ^^^ a := by
  rw [show (3 : Byte) = 2 ^^^ 1 by rfl, xor_gmul, two_gmul, one_gmul]

/-- Settles O28: each equation is its row of the matrix, with the products by 01, 02 and 03 as R605 writes them. -/
theorem mixColumnsEquations : Obligations.MixColumnsEquations := by
  intro s c hc a
  have row (r : Nat) (hr : r < 4) : stateByte (mixColumns s) r c = circulantRow mixRow a r :=
    stateByte_mixColumns s hr hc
  refine ⟨?_, ?_, ?_, ?_⟩ <;> rw [row _ (by decide)] <;>
    simp only [circulantRow, mixRow, two_gmul, three_gmul, one_gmul, Nat.reduceSub, Nat.reduceMod]

/-- InvMixColumns undoes MixColumns (R608). -/
@[simp] theorem invMixColumns_mixColumns (s : Block) : invMixColumns (mixColumns s) = s :=
  state_ext _ _ fun r c hr hc =>
    calc stateByte (invMixColumns (mixColumns s)) r c
        = circulantRow invMixRow (stateByte (mixColumns s) · c) r := stateByte_invMixColumns _ hr hc
      _ = circulantRow invMixRow (circulantRow mixRow (stateByte s · c)) r :=
          circulantRow_congr _ (fun _ hj => stateByte_mixColumns s hj hc) r
      _ = stateByte s r c := circulantRow_invMixRow_mixRow _ hr

/-- Settles O29: each equation is its row of the matrix, and the two matrices are inverse. -/
theorem invMixColumnsUndoesMixColumns : Obligations.InvMixColumnsUndoesMixColumns := by
  refine ⟨fun s c hc => ?rows, invMixColumns_mixColumns⟩
  case rows =>
    have row (r : Nat) (hr : r < 4) := stateByte_invMixColumns s hr hc
    exact ⟨row 0 (by decide), row 1 (by decide), row 2 (by decide), row 3 (by decide)⟩

/-! ### ENCB and DECB -/

/-- The key check is the first: where it fails, BLKLEN plays no part (R611). -/
theorem blockPrologue_of_noSchedule {s : State} (h : NoSchedule s) :
    blockPrologue s = .error .invalidKeyLength := by
  rw [blockPrologue, (ensureSchedule_eq_none s).mpr h]

theorem blockPrologue_of_blklen_ne {s : State} {k : Schedule} (hk : HasSchedule s k) (hlen : s.blklen ≠ 16) :
    blockPrologue s = .error .invalidBlockLength := by
  rw [blockPrologue, (ensureSchedule_eq_some s k).mpr hk]
  exact if_pos hlen

/-- A failed check completes ENCB and DECB with its code (R611, R612). -/
theorem exec_block_of_error {i : Instr} {s : State} {c : Code} (hi : i = .encb ∨ i = .decb)
    (h : blockPrologue s = .error c) : exec i s = .next (complete c s) := by
  rcases hi with rfl | rfl
  · rw [exec, execEncb, h]
  · rw [exec, execDecb, h]

/-- With the checks passed, ENCB writes Cipher of BLKIN to BLKOUT, and DECB InvCipher of it (R611, R612). -/
theorem exec_block_of_ok {i : Instr} {s : State} {k : Schedule} (hi : i = .encb ∨ i = .decb)
    (h : blockPrologue s = .ok k) :
    exec i s = .next (finishBlock k (if i = .encb then cipher k s.blkin else invCipher k s.blkin) s) := by
  rcases hi with rfl | rfl
  · rw [exec, execEncb, h]
    rfl
  · rw [exec, execDecb, h]
    rfl

/-- A block command's record: BLKOUT and the schedule, and the command completes with Success (R611, R612). -/
theorem finishBlock_eq (k : Schedule) (b : Block) (s : State) : finishBlock k b s =
    { s with
      blkout := b, rk := k.rk, ksNr := k.nr, ksvalid := true
      busy := false, done := true, err := false, errcode := 0, pending := none } := rfl

/-- Settles O32: the three outcomes of the checks, in their order. -/
theorem encbAndDecbResult : Obligations.EncbAndDecbResult := by
  refine ⟨Laws.DecodeEncode.encb.1, Laws.DecodeEncode.decb.1, ?_⟩
  intro i s k hi failed
  refine ⟨fun hno => ?key, fun hk hlen => ?length, fun hk hlen => ?success⟩
  case key =>
    rw [exec_block_of_error hi (blockPrologue_of_noSchedule hno), complete_eq]
    rfl
  case length =>
    rw [exec_block_of_error hi (blockPrologue_of_blklen_ne hk hlen), complete_eq]
    rfl
  case success =>
    rw [exec_block_of_ok hi ((blockPrologue_eq_ok s k).mpr ⟨hk, hlen⟩), finishBlock_eq]

end Sys2Proof.Machine

/-! Padding and the counter mode over byte strings (44_chaining_modes.md, R702, R703, R706, R707, R719): which
paddings are rejected, the counter block as a number, the keystream byte by byte, and that Cipher is injective. -/

namespace Sys2Proof.Machine

/-! ### Padding -/

/-- R703 with the last byte named: the bound on its value, then the check of the bytes it covers. -/
theorem unpad_of_getLast {p : List Byte} {last : Byte} (h : p.getLast? = some last) :
    unpad p =
      if last.toNat = 0 ∨ last.toNat > 16 then none
      else if (p.drop (p.length - last.toNat)).all (fun b => b == last) then some (p.take (p.length - last.toNat))
      else none := by
  have hlast : p.getLastD 0 = last := by rw [List.getLastD_eq_getLast?, h, Option.getD_some]
  rw [unpad, hlast]

/-- The last `n` bytes of a string are all `b`, said by their indices. -/
theorem drop_all_beq_iff (p : List Byte) (b : Byte) (n : Nat) (hn : n ≤ p.length) :
    (p.drop (p.length - n)).all (fun c => c == b) = true ↔ ∀ k < n, p[p.length - n + k]? = some b := by
  simp only [List.all_eq_true, beq_iff_eq, List.forall_mem_iff_getElem, List.getElem_drop, List.length_drop]
  refine forall_congr' fun k => ⟨fun h hk => ?_, fun h hk => ?_⟩
  · rw [List.getElem?_eq_getElem (by omega), h (by omega)]
  · exact List.getElem_eq_iff _ |>.mpr (h (by omega))

/-- What `unpad` rejects, for a string long enough to hold any padding (R703). -/
theorem unpad_eq_none_iff {p : List Byte} {last : Byte} (hlen : 16 ≤ p.length) (h : p.getLast? = some last) :
    unpad p = none ↔
      last.toNat = 0 ∨ last.toNat > 16 ∨ ∃ k < last.toNat, p[p.length - last.toNat + k]? ≠ some last := by
  rw [unpad_of_getLast h]
  by_cases hrange : last.toNat = 0 ∨ last.toNat > 16
  · rw [if_pos hrange]
    exact iff_of_true rfl (hrange.imp_right .inl)
  · have hall := drop_all_beq_iff p last last.toNat (by omega)
    rw [if_neg hrange, ite_eq_right_iff, hall, ← or_assoc, or_iff_right hrange]
    simp

/-- What `unpad` leaves of a string it accepts (R703). -/
theorem eq_take_of_unpad_eq_some {p q : List Byte} {last : Byte} (h : p.getLast? = some last)
    (hq : unpad p = some q) : q = p.take (p.length - last.toNat) := by
  rw [unpad_of_getLast h] at hq
  split at hq
  · cases hq
  · split at hq
    · exact (Option.some.inj hq).symm
    · cases hq

/-- `unpad` undoes `pad`: the last byte is the pad length, and the bytes it covers are the padding (R702, R703). -/
theorem unpad_pad (m : List Byte) : unpad (pad m) = some m := by
  obtain ⟨hpos, hle, -⟩ := padLen_bounds m.length
  generalize hn : padLen m.length = n at hpos hle
  have hpad : pad m = m ++ List.replicate n (BitVec.ofNat 8 n) := by rw [pad, hn]
  have hlast : (pad m).getLast? = some (BitVec.ofNat 8 n) := by
    simp [hpad, List.getLast?_append, List.getLast?_replicate, Nat.ne_of_gt hpos]
  have hvalue : (BitVec.ofNat 8 n).toNat = n := by rw [BitVec.toNat_ofNat]; omega
  have hstart : (pad m).length - n = m.length := by simp [hpad]
  rw [unpad_of_getLast hlast, hvalue, if_neg (by omega), hstart, hpad]
  simp

/-- Settles O33: the pad by its length, the round trip, and the two outcomes of the check. -/
theorem padAndUnpad : Obligations.PadAndUnpad := by
  refine ⟨fun m => ?pads, unpad_pad, fun p last hmod h => ⟨?rejects, fun q hq => eq_take_of_unpad_eq_some h hq⟩⟩
  case pads =>
    obtain ⟨hpos, hle, -⟩ := padLen_bounds m.length
    exact ⟨padLen m.length, rfl, hpos, hle, rfl, pad_length m⟩
  case rejects =>
    have hne : p ≠ [] := by rintro rfl; cases h
    have hlen : 16 ≤ p.length := by have := List.length_pos_of_ne_nil hne; omega
    have hzero : last = 0 ↔ last.toNat = 0 := (BitVec.toNat_inj (y := 0)).symm
    rw [unpad_eq_none_iff hlen h, hzero]

/-! ### The counter -/

/-- A number below b^n is the sum of its n base-b digits (R706). -/
theorem sum_digits_eq_mod (b x n : Nat) : ∑ j ∈ Finset.range n, x / b ^ j % b * b ^ j = x % b ^ n := by
  induction n with
  | zero => simp [Nat.mod_one]
  | succ n ih => rw [Finset.sum_range_succ, ih, Nat.mod_pow_succ, Nat.mul_comm]

/-- A byte of a block as a number, byte 0 most significant (R600, R706). -/
theorem toNat_blockByte (b : Block) {i : Nat} (h : i < 16) :
    (blockByte b i).toNat = b.toNat / 256 ^ (15 - i) % 256 := by
  rw [blockByte, if_pos h, BitVec.extractLsb'_toNat, Nat.shiftRight_eq_div_pow, Nat.pow_mul]

/-- A block as a number is its big-endian byte string (`be_int` of R706). -/
theorem toNat_eq_sum_blockByte (b : Block) :
    b.toNat = ∑ j ∈ Finset.range 16, (blockByte b j).toNat * 256 ^ (15 - j) :=
  calc b.toNat = b.toNat % 256 ^ 16 := (Nat.mod_eq_of_lt b.isLt).symm
    _ = ∑ j ∈ Finset.range 16, b.toNat / 256 ^ j % 256 * 256 ^ j := (sum_digits_eq_mod 256 b.toNat 16).symm
    _ = ∑ j ∈ Finset.range 16, b.toNat / 256 ^ (15 - j) % 256 * 256 ^ (15 - j) :=
        (Finset.sum_range_reflect (fun j => b.toNat / 256 ^ j % 256 * 256 ^ j) 16).symm
    _ = ∑ j ∈ Finset.range 16, (blockByte b j).toNat * 256 ^ (15 - j) :=
        Finset.sum_congr rfl fun j hj => by rw [toNat_blockByte b (Finset.mem_range.mp hj)]

/-- R706: `ctr_i = (c0 + i) mod 2^128`. -/
theorem toNat_ctrBlock (iv : Block) (i : Nat) : (ctrBlock iv i).toNat = (iv.toNat + i) % 2 ^ 128 := by
  rw [ctrBlock, BitVec.toNat_add, BitVec.toNat_ofNat, Nat.add_mod_mod]

theorem ctrBlock_eq_ofNat (iv : Block) (i : Nat) : ctrBlock iv i = BitVec.ofNat 128 (iv.toNat + i) := by
  rw [← BitVec.toNat_inj, toNat_ctrBlock, BitVec.toNat_ofNat]

/-- Within 2^128 blocks the counter takes no value twice (R719). -/
theorem ctrBlock_inj {iv : Block} {i j : Nat} (hi : i < 2 ^ 128) (hj : j < 2 ^ 128)
    (h : ctrBlock iv i = ctrBlock iv j) : i = j := by
  have hsum : BitVec.ofNat 128 i = BitVec.ofNat 128 j := BitVec.add_right_inj iv |>.mp h
  have hnat := congrArg BitVec.toNat hsum
  rwa [BitVec.toNat_ofNat, BitVec.toNat_ofNat, Nat.mod_eq_of_lt hi, Nat.mod_eq_of_lt hj] at hnat

/-! ### The keystream -/

/-- Byte `j` of the loop of R707 that starts at counter index `i`. -/
theorem ctrLoop_getElem? (e : Block → Block) (iv : Block) (n i : Nat) (xs : List Byte) (hn : xs.length ≤ 16 * n)
    (j : Nat) (hj : j < xs.length) :
    (ctrLoop e iv n i xs)[j]? = some (xs[j] ^^^ blockByte (e (ctrBlock iv (i + j / 16))) (j % 16)) := by
  induction n generalizing i xs j with
  | zero => omega
  | succ n ih =>
    rw [ctrLoop]
    by_cases hfirst : j < 16
    · have hindex : i + j / 16 = i := by omega
      rw [List.getElem?_append_left (by simp; omega), hindex, Nat.mod_eq_of_lt hfirst]
      simp [hfirst, hj, blockBytes]
    · have hblock : (List.zipWith (fun x k => x ^^^ k) (xs.take 16) (blockBytes (e (ctrBlock iv i)))).length = 16 := by
        simp; omega
      have hindex : i + 1 + (j - 16) / 16 = i + j / 16 := by omega
      have hbyte : (j - 16) % 16 = j % 16 := by omega
      have hback : 16 + (j - 16) = j := by omega
      rw [List.getElem?_append_right (by omega), hblock, ih _ _ (by simp; omega) _ (by simp; omega), hindex, hbyte]
      simp only [List.getElem_drop, hback]

/-- Byte `j` of the CTR output (R707). -/
theorem ctrXcrypt_getElem? (e : Block → Block) (iv : Block) (xs : List Byte) (j : Nat) (hj : j < xs.length) :
    (ctrXcrypt e iv xs)[j]? = some (xs[j] ^^^ blockByte (e (ctrBlock iv (j / 16))) (j % 16)) := by
  have henough : xs.length ≤ 16 * blockCount xs.length := by unfold blockCount; omega
  simpa only [ctrXcrypt, Nat.zero_add] using ctrLoop_getElem? e iv _ 0 xs henough j hj

/-- Settles O35: the counter as a number, and the output byte by byte. -/
theorem ctrCounterAndOutput : Obligations.CtrCounterAndOutput :=
  ⟨fun iv i => ⟨toNat_eq_sum_blockByte iv, toNat_ctrBlock iv i⟩,
    fun e iv xs => ⟨ctrXcrypt_length e iv xs, ctrXcrypt_getElem? e iv xs⟩⟩

/-! ### Cipher is injective -/

/-- The main rounds are undone one by one, the last first (R610). -/
@[simp] theorem invCipherRounds_cipherRounds (k : Schedule) (n : Nat) (s : Block) :
    invCipherRounds k n (cipherRounds k n s) = s := by
  induction n with
  | zero => rfl
  | succ n ih => simp [cipherRounds, invCipherRounds, ih]

/-- InvCipher undoes Cipher, for any schedule (R613). -/
@[simp] theorem invCipher_cipher (k : Schedule) (b : Block) : invCipher k (cipher k b) = b := by
  simp [invCipher, cipher]

theorem cipher_injective (k : Schedule) : Function.Injective (cipher k) :=
  Function.LeftInverse.injective (invCipher_cipher k)

/-- Settles O36: distinct counters, encrypted by an injective cipher. -/
theorem keystreamBlocksAreDistinct : Obligations.KeystreamBlocksAreDistinct := by
  intro k iv n i j hn hi hj hne
  have hctr : ctrBlock iv i ≠ ctrBlock iv j := fun h => hne (ctrBlock_inj (by omega) (by omega) h)
  exact ⟨hctr, (cipher_injective k).ne hctr⟩

end Sys2Proof.Machine

/-! The BADMODE words and the message commands (44_chaining_modes.md, R708 to R712, R716): the four message commands
run the same checks and differ in one length check and in what they make of the message. -/

namespace Sys2Proof

/-! ### The words of the message operations -/

/-- The fields of a word put together from fields (R300). -/
@[simp] theorem fieldsOf_wordOf (f : CmdFields) : fieldsOf (wordOf f) = f := by
  obtain ⟨rsvd, mode, op⟩ := f
  simp only [fieldsOf, wordOf, CmdFields.mk.injEq]
  refine ⟨?_, ?_, ?_⟩
  · rw [Machine.extract_append_high _ _ _ _ (by decide), Machine.extract_append_high _ _ _ _ (by decide)]
    exact BitVec.extractLsb'_eq_self
  · rw [Machine.extract_append_high _ _ _ _ (by decide), Machine.extract_append_low _ _ _ _ (by decide)]
    exact BitVec.extractLsb'_eq_self
  · rw [Machine.extract_append_low _ _ _ _ (by decide)]
    exact BitVec.extractLsb'_eq_self

/-- OP 0x10 with RSVD 0 is a command for every MODE (R302, R305). -/
theorem decode_msgenc (mode : BitVec 4) : decode (wordOf (msgFields 0x10 mode)) = .ok (decodeMsgenc mode) := by
  rw [decode, fieldsOf_wordOf]
  rfl

/-- OP 0x11 with RSVD 0 is a command for every MODE (R302, R305). -/
theorem decode_msgdec (mode : BitVec 4) : decode (wordOf (msgFields 0x11 mode)) = .ok (decodeMsgdec mode) := by
  rw [decode, fieldsOf_wordOf]
  rfl

end Sys2Proof

namespace Sys2Proof.Machine

/-- `fail(code)` as one record: OUTLEN, the status bits and `pending`, and nothing else (R700). -/
theorem failMsg_eq (c : Code) (s : State) : failMsg c s =
    { s with
      outlen := 0, busy := false, done := true, err := decide (codeBits c ≠ 0), errcode := codeBits c
      pending := none } := by
  rw [failMsg, complete_eq]

/-! ### BADMODE -/

/-- The MODE values 2 to 15 select the 28 BADMODE commands (R302, R712). -/
theorem decodeMsg_mem_badMode : ∀ mode : BitVec 4, 2 ≤ mode.toNat →
    decodeMsgenc mode ∈ badModeEnc ∧ decodeMsgdec mode ∈ badModeDec := by decide

/-- A BADMODE command fails before any other check (R712). -/
theorem exec_badMode {i : Instr} (hi : i ∈ badModeEnc ++ badModeDec) (s : State) :
    exec i s = .next (failMsg .unsupportedMode s) := by
  fin_cases hi <;> rfl

/-- Settles O40: the decoder on the two message operations, and the one failure of the 28 commands. -/
theorem badModeResult : Obligations.BadModeResult := by
  refine ⟨fun mode hmode => ?words, fun i s hi => ?fails⟩
  case words =>
    obtain ⟨henc, hdec⟩ := decodeMsg_mem_badMode mode hmode
    exact ⟨⟨_, henc, decode_msgenc mode⟩, ⟨_, hdec, decode_msgdec mode⟩⟩
  case fails =>
    rw [exec_badMode hi, failMsg_eq]
    rfl

/-! ### The four message commands as one -/

/-- The length check that a message command makes after the shared ones: MSGENC.CBC asks for room for the padding,
MSGDEC.CBC for whole blocks (R708, R709). -/
def lengthFault (i : Instr) (s : State) : Option Code :=
  match i with
  | .msgencCbc => if paddedLen s.msglen.toNat > s.cfg.msgbufBytes then some .lengthOverflow else none
  | .msgdecCbc => if s.msglen.toNat = 0 ∨ s.msglen.toNat % 16 ≠ 0 then some .invalidBlockLength else none
  | _ => none

/-- What a message command makes of its message: the bytes for OUT and the block for CHAIN; none is
InvalidPadding (R708 to R711). -/
def messageResult (i : Instr) (k : Schedule) (iv : Block) (m : List Byte) : Option (List Byte × Block) :=
  match i with
  | .msgencCbc => some (bytesOf (cbcCiphertext k iv m), (cbcCiphertext k iv m).getLastD iv)
  | .msgdecCbc => (unpad (cbcPlaintext k iv m)).map fun p => (p, lastBlock iv m)
  | _ => some (ctrXcrypt (cipher k) iv m, ctrBlock iv (blockCount m.length))

/-- The one course of the four message commands: the shared checks, the length check, the message, the result. -/
def runMessage (i : Instr) (s : State) : Host.Outcome State Fault Refusal :=
  match msgPrologue s with
  | .error c => .next (failMsg c s)
  | .ok k =>
    match lengthFault i s, readMessage s with
    | some c, _ => .next (failMsg c s)
    | none, none => .fault .uninitRead
    | none, some m =>
      match messageResult i k s.iv m with
      | none => .next (failMsg .invalidPadding s)
      | some (out, chain) => .next (finishMessage k out chain s)

/-- Each message command takes that course (R708 to R711). -/
theorem exec_message {i : Instr} (hi : i ∈ messageCommands) (s : State) : exec i s = runMessage i s := by
  fin_cases hi
  · simp only [exec, execMsgencCbc, runMessage, lengthFault, messageResult]
    cases msgPrologue s with
    | error c => rfl
    | ok k => by_cases hlong : paddedLen s.msglen.toNat > s.cfg.msgbufBytes <;> cases readMessage s <;> simp [hlong]
  · simp only [exec, execMsgdecCbc, runMessage, lengthFault, messageResult]
    cases msgPrologue s with
    | error c => rfl
    | ok k =>
      by_cases hpart : s.msglen.toNat = 0 ∨ s.msglen.toNat % 16 ≠ 0 <;> cases readMessage s with
      | none => simp only [hpart, if_true, if_false]
      | some m => cases hp : unpad (cbcPlaintext k s.iv m) <;> simp only [hpart, hp, if_true, if_false, Option.map]
  all_goals
    simp only [exec, execMsgencCtr, execMsgdecCtr, ctrCommand, runMessage, lengthFault, messageResult]
    cases msgPrologue s with
    | error c => rfl
    | ok k => cases readMessage s <;> rfl

/-- The ways in which a message command fails, each check after those before it (R405, R700). -/
inductive MessageFails (i : Instr) (s : State) : Code → Prop where
  /-- the key, IVLEN or MSGLEN -/
  | prologue {c : Code} (hk : msgPrologue s = .error c) : MessageFails i s c
  /-- the length check of the command -/
  | length {k : Schedule} {c : Code} (hk : msgPrologue s = .ok k) (hlen : lengthFault i s = some c) :
    MessageFails i s c
  /-- the padding of the decrypted message -/
  | padding {k : Schedule} {m : List Byte} (hk : msgPrologue s = .ok k) (hlen : lengthFault i s = none)
    (hm : readMessage s = some m) (hr : messageResult i k s.iv m = none) : MessageFails i s .invalidPadding

/-- A message command passes every check: its schedule, message, output and chaining value. -/
structure MessageSucceeds (i : Instr) (s : State) (k : Schedule) (m out : List Byte) (chain : Block) : Prop where
  prologue : msgPrologue s = .ok k
  length : lengthFault i s = none
  message : readMessage s = some m
  result : messageResult i k s.iv m = some (out, chain)

/-- When a message command goes on: it fails, or stores its results (R700, R708 to R711). -/
theorem exec_message_eq_next_iff {i : Instr} (hi : i ∈ messageCommands) (s t : State) :
    exec i s = .next t ↔
      (∃ c, MessageFails i s c ∧ t = failMsg c s) ∨
      ∃ k m out chain, MessageSucceeds i s k m out chain ∧ t = finishMessage k out chain s := by
  rw [exec_message hi]
  constructor
  · intro h
    unfold runMessage at h
    split at h
    next hk => exact .inl ⟨_, .prologue hk, by cases h; rfl⟩
    next hk =>
      split at h
      next hlen => exact .inl ⟨_, .length hk hlen, by cases h; rfl⟩
      next => cases h
      next hlen hm =>
        split at h
        next hr => exact .inl ⟨_, .padding hk hlen hm hr, by cases h; rfl⟩
        next hr => exact .inr ⟨_, _, _, _, ⟨hk, hlen, hm, hr⟩, by cases h; rfl⟩
  · rintro (⟨c, hfail, rfl⟩ | ⟨k, m, out, chain, ⟨hk, hlen, hm, hr⟩, rfl⟩)
    · cases hfail with
      | prologue hk => simp only [runMessage, hk]
      | length hk hlen => simp only [runMessage, hk, hlen]
      | padding hk hlen hm hr => simp only [runMessage, hk, hlen, hm, hr]
    · simp only [runMessage, hk, hlen, hm, hr]

theorem MessageFails.exec_eq {i : Instr} {s : State} {c : Code} (h : MessageFails i s c)
    (hi : i ∈ messageCommands) : exec i s = .next (failMsg c s) :=
  (exec_message_eq_next_iff hi s _).mpr (.inl ⟨c, h, rfl⟩)

theorem MessageSucceeds.exec_eq {i : Instr} {s : State} {k : Schedule} {m out : List Byte} {chain : Block}
    (h : MessageSucceeds i s k m out chain) (hi : i ∈ messageCommands) :
    exec i s = .next (finishMessage k out chain s) :=
  (exec_message_eq_next_iff hi s _).mpr (.inr ⟨k, m, out, chain, h, rfl⟩)

/-- A message command's record: OUT, OUTLEN, CHAIN and the schedule, and it completes with Success (R708 to R711). -/
theorem finishMessage_eq (k : Schedule) (out : List Byte) (chain : Block) (s : State) :
    finishMessage k out chain s =
      { s with
        mem := memWriteBytes s.mem outBase out, outlen := BitVec.ofNat 17 out.length, chain := chain
        rk := k.rk, ksNr := k.nr, ksvalid := true
        busy := false, done := true, err := false, errcode := 0, pending := none } := rfl

/-! ### The shared checks -/

section
variable {s : State} {k : Schedule}

/-- The key check is the first: where it fails, IVLEN and MSGLEN play no part (R700). -/
theorem msgPrologue_of_noSchedule (h : NoSchedule s) : msgPrologue s = .error .invalidKeyLength := by
  rw [msgPrologue, (ensureSchedule_eq_none s).mpr h]

theorem msgPrologue_of_ivlen_ne (hk : HasSchedule s k) (hiv : s.ivlen ≠ 16) :
    msgPrologue s = .error .invalidIVLength := by
  rw [msgPrologue, (ensureSchedule_eq_some s k).mpr hk]
  exact if_pos hiv

theorem msgPrologue_of_msglen_gt (hk : HasSchedule s k) (hiv : s.ivlen = 16)
    (hlen : s.cfg.msgbufBytes < s.msglen.toNat) : msgPrologue s = .error .lengthOverflow := by
  rw [msgPrologue, (ensureSchedule_eq_some s k).mpr hk]
  exact (if_neg (not_not.mpr hiv)).trans (if_pos hlen)

end

/-- No failure of a message command has code 0. -/
theorem MessageFails.codeBits_ne {i : Instr} {s : State} {c : Code} (h : MessageFails i s c) : codeBits c ≠ 0 := by
  cases h with
  | prologue hk => exact msgPrologue_error_ne s c hk
  | padding => decide
  | length hk hlen =>
    unfold lengthFault at hlen
    split at hlen
    · split at hlen <;> cases hlen
      decide
    · split at hlen <;> cases hlen
      decide
    · cases hlen

/-! ### The effects of the four commands -/

/-- Settles O37: the failures of the shared checks and of the room for the padding, and the success. -/
theorem msgencCbcResult : Obligations.MsgencCbcResult := by
  have hi : Instr.msgencCbc ∈ messageCommands := by decide
  refine ⟨Laws.DecodeEncode.msgencCbc.1, ?_⟩
  intro s k m failed cs
  refine ⟨fun hno => ?key, fun hk hiv => ?iv, fun hk hiv hlong => ?room, fun hk hiv hfits hm => ?success⟩
  case key => exact (MessageFails.prologue (msgPrologue_of_noSchedule hno)).exec_eq hi
  case iv => exact (MessageFails.prologue (msgPrologue_of_ivlen_ne hk hiv)).exec_eq hi
  case room =>
    by_cases hbuf : s.msglen.toNat ≤ s.cfg.msgbufBytes
    · have hok := (msgPrologue_eq_ok s k).mpr ⟨hk, hiv, hbuf⟩
      have hlen : lengthFault .msgencCbc s = some .lengthOverflow := if_pos hlong
      exact (MessageFails.length hok hlen).exec_eq hi
    · have hover := msgPrologue_of_msglen_gt hk hiv (Nat.lt_of_not_le hbuf)
      exact (MessageFails.prologue hover).exec_eq hi
  case success =>
    have h : MessageSucceeds .msgencCbc s k m (bytesOf cs) (cs.getLastD s.iv) :=
      ⟨(msgPrologue_eq_ok s k).mpr ⟨hk, hiv, by omega⟩, if_neg (Nat.not_lt.mpr hfits),
        (readMessage_eq_some s m).mpr hm, rfl⟩
    rw [h.exec_eq hi, finishMessage_eq]
    rfl

/-- Settles O38: the failures of the shared checks, of the length and of the padding, and the success. -/
theorem msgdecCbcResult : Obligations.MsgdecCbcResult := by
  have hi : Instr.msgdecCbc ∈ messageCommands := by decide
  refine ⟨Laws.DecodeEncode.msgdecCbc.1, ?_⟩
  intro s k c failed cs p
  refine ⟨fun hno => ?key, fun hk hiv => ?iv, fun hk hiv hover => ?msglen, fun hk hiv hbuf hpart => ?blocks,
    fun hk hiv hbuf hpos hmod hm => ?message⟩
  case key => exact (MessageFails.prologue (msgPrologue_of_noSchedule hno)).exec_eq hi
  case iv => exact (MessageFails.prologue (msgPrologue_of_ivlen_ne hk hiv)).exec_eq hi
  case msglen => exact (MessageFails.prologue (msgPrologue_of_msglen_gt hk hiv hover)).exec_eq hi
  case blocks =>
    have hok := (msgPrologue_eq_ok s k).mpr ⟨hk, hiv, hbuf⟩
    have hlen : lengthFault .msgdecCbc s = some .invalidBlockLength := if_pos hpart
    exact (MessageFails.length hok hlen).exec_eq hi
  case message =>
    have hok := (msgPrologue_eq_ok s k).mpr ⟨hk, hiv, hbuf⟩
    have hlen : lengthFault .msgdecCbc s = none := if_neg (not_or.mpr ⟨hpos, not_not.mpr hmod⟩)
    have hread := (readMessage_eq_some s c).mpr hm
    refine ⟨fun hp => ?padding, fun m hp => ?success⟩
    case padding => exact (MessageFails.padding hok hlen hread (Option.map_eq_none_iff.mpr hp)).exec_eq hi
    case success =>
      have h : MessageSucceeds .msgdecCbc s k c m (cs.getLastD s.iv) :=
        ⟨hok, hlen, hread, Option.map_eq_some_iff.mpr ⟨m, hp, rfl⟩⟩
      rw [h.exec_eq hi, finishMessage_eq]
      rfl

/-- The CTR commands make no length check, and both make the same of the message (R711). -/
theorem messageSucceeds_ctr {i : Instr} {s : State} {k : Schedule} {m : List Byte}
    (hi : i = .msgencCtr ∨ i = .msgdecCtr) (hok : msgPrologue s = .ok k) (hm : HoldsMessage s m) :
    MessageSucceeds i s k m (ctrXcrypt (cipher k) s.iv m) (ctrBlock s.iv (blockCount m.length)) := by
  have hread := (readMessage_eq_some s m).mpr hm
  rcases hi with rfl | rfl
  · exact ⟨hok, rfl, hread, rfl⟩
  · exact ⟨hok, rfl, hread, rfl⟩

/-- Settles O39: the failures of the shared checks and the one success. -/
theorem ctrCommandsResult : Obligations.CtrCommandsResult := by
  refine ⟨Laws.DecodeEncode.msgencCtr.1, Laws.DecodeEncode.msgdecCtr.1, ?_⟩
  intro i s k m hctr failed
  have hi : i ∈ messageCommands := by rcases hctr with rfl | rfl <;> decide
  refine ⟨fun hno => ?key, fun hk hiv => ?iv, fun hk hiv hover => ?msglen, fun hk hiv hbuf hm => ?success⟩
  case key => exact (MessageFails.prologue (msgPrologue_of_noSchedule hno)).exec_eq hi
  case iv => exact (MessageFails.prologue (msgPrologue_of_ivlen_ne hk hiv)).exec_eq hi
  case msglen => exact (MessageFails.prologue (msgPrologue_of_msglen_gt hk hiv hover)).exec_eq hi
  case success =>
    have hok := (msgPrologue_eq_ok s k).mpr ⟨hk, hiv, hbuf⟩
    have ⟨hlen, _⟩ := hm
    have houtlen : BitVec.ofNat 17 m.length = s.msglen := by rw [hlen, BitVec.ofNat_toNat, BitVec.setWidth_eq]
    rw [(messageSucceeds_ctr hctr hok hm).exec_eq hi, finishMessage_eq, ctrXcrypt_length, houtlen,
      ctrBlock_eq_ofNat, blockCount, hlen]
    rfl

/-! ### CHAIN -/

/-- The end of a string that stands in memory stands there too. -/
theorem memReadBytes_suffix {mem : Memory} {a : Nat} {xs ys : List Byte}
    (h : memReadBytes mem a (xs ++ ys).length = some (xs ++ ys)) :
    memReadBytes mem (a + xs.length) ys.length = some ys := by
  obtain ⟨-, hbytes⟩ := memReadBytes_eq_some _ _ _ _ h
  refine memReadBytes_of_bytes ys mem _ fun i hi => ?_
  rw [Nat.add_assoc, hbytes (xs.length + i) (by simp; omega), List.getElem?_append_right (by omega),
    Nat.add_sub_cancel_left]

/-- A string that was written reads back (R208). -/
theorem memReadBytes_memWriteBytes (mem : Memory) (a : Nat) (bs : List Byte) :
    memReadBytes (memWriteBytes mem a bs) a bs.length = some bs := by
  induction bs generalizing mem a with
  | nil => rfl
  | cons v vs ih =>
    have hhead : memRead (memWriteBytes mem a (v :: vs)) a = some v := by
      rw [memWriteBytes, memRead_memWriteBytes_below _ _ _ _ (by omega), memRead_memWrite_self]
    have htail : memReadBytes (memWriteBytes mem a (v :: vs)) (a + 1) vs.length = some vs := ih _ _
    simp only [List.length_cons, memReadBytes, hhead, htail]

/-- Cutting whole blocks and joining them again gives the string (R704). -/
theorem bytesOf_blocksOf (n : Nat) (q : List Byte) (h : q.length = 16 * n) : bytesOf (blocksOf n q) = q := by
  induction n generalizing q with
  | zero => exact (List.eq_nil_of_length_eq_zero h).symm
  | succ n ih =>
    have hhead : blockBytes (blockOfBytes (q.take 16)) = q.take 16 := blockBytes_blockOfBytes _ (by simp; omega)
    have htail : bytesOf (blocksOf n (q.drop 16)) = q.drop 16 := ih _ (by simp; omega)
    calc bytesOf (blocksOf (n + 1) q)
        = blockBytes (blockOfBytes (q.take 16)) ++ bytesOf (blocksOf n (q.drop 16)) := rfl
      _ = q := by rw [hhead, htail, List.take_append_drop]

/-- The last of the blocks that stand in memory takes up the last 16 bytes. -/
theorem memReadBytes_getLastD {mem : Memory} {a : Nat} {cs : List Block} (iv : Block) (hne : cs ≠ [])
    (h : memReadBytes mem a (bytesOf cs).length = some (bytesOf cs)) :
    memReadBytes mem (a + (bytesOf cs).length - 16) 16 = some (blockBytes (cs.getLastD iv)) := by
  obtain ⟨init, last, rfl⟩ := (List.eq_nil_or_concat' cs).resolve_left hne
  have hbytes : bytesOf (init ++ [last]) = bytesOf init ++ blockBytes last := by simp [bytesOf]
  have hstart : a + (bytesOf (init ++ [last])).length - 16 = a + (bytesOf init).length := by
    rw [hbytes, List.length_append, blockBytes_length]
    omega
  rw [hbytes] at h
  rw [hstart, List.getLastD_concat, ← blockBytes_length last]
  exact memReadBytes_suffix h

/-- A message command that completes with code 0 has passed every check (R404, R700). -/
theorem messageSucceeds_of_errcode_eq_zero {i : Instr} {s t : State} (hi : i ∈ messageCommands)
    (h : exec i s = .next t) (h0 : t.errcode = 0) :
    ∃ k m out chain, MessageSucceeds i s k m out chain ∧ t = finishMessage k out chain s := by
  rcases (exec_message_eq_next_iff hi s t).mp h with ⟨c, hfail, rfl⟩ | hsucc
  · exact absurd h0 hfail.codeBits_ne
  · exact hsucc

/-- A failed command, and one that is no message command, keeps CHAIN (R716). -/
theorem exec_keeps_chain {i : Instr} {s t : State} (h : exec i s = .next t)
    (hkeep : t.errcode ≠ 0 ∨ i ∉ messageCommands) : t.chain = s.chain := by
  rcases exec_cases i s t h with ⟨_, -, -, rfl⟩ | ⟨_, -, -, rfl⟩ | ⟨-, rfl⟩ | ⟨-, -, rfl⟩ |
    ⟨-, _, rfl⟩ | ⟨-, _, _, -, -, rfl⟩ | ⟨hi, _, _, _, _, -, -, -, -, -, rfl⟩
  case inr.inr.inr.inr.inr.inr => exact absurd hkeep (not_or.mpr ⟨not_not.mpr rfl, not_not.mpr hi⟩)
  all_goals rfl

/-- MSGENC.CBC leaves in CHAIN the last block that it wrote to OUT (R708). -/
theorem msgencCbc_chain {s t : State} (h : exec .msgencCbc s = .next t) (h0 : t.errcode = 0) :
    memReadBytes t.mem (outBase + t.outlen.toNat - 16) 16 = some (blockBytes t.chain) := by
  obtain ⟨k, m, out, chain, hsucc, rfl⟩ := messageSucceeds_of_errcode_eq_zero (by decide) h h0
  obtain ⟨rfl, rfl⟩ := Prod.mk.inj (Option.some.inj hsucc.result)
  obtain ⟨hm, -⟩ := (readMessage_eq_some s m).mp hsucc.message
  have hroom : paddedLen m.length ≤ s.cfg.msgbufBytes := by simpa [lengthFault, hm] using hsucc.length
  have hlen : (BitVec.ofNat 17 (bytesOf (cbcCiphertext k s.iv m)).length).toNat =
      (bytesOf (cbcCiphertext k s.iv m)).length := by
    have hsize := msgbufBytes_bounds s.cfg
    rw [BitVec.toNat_ofNat, cbcCiphertext_length]
    omega
  have hne : cbcCiphertext k s.iv m ≠ [] := List.ne_nil_of_length_pos (by simp [cbcCiphertext])
  rw [finishMessage_outlen, hlen, finishMessage_mem, finishMessage_chain]
  exact memReadBytes_getLastD s.iv hne (memReadBytes_memWriteBytes _ _ _)

/-- MSGDEC.CBC leaves in CHAIN the last block of IN (R709). -/
theorem msgdecCbc_chain {s t : State} (h : exec .msgdecCbc s = .next t) (h0 : t.errcode = 0) :
    memReadBytes s.mem (inBase + s.msglen.toNat - 16) 16 = some (blockBytes t.chain) := by
  obtain ⟨k, m, out, chain, hsucc, rfl⟩ := messageSucceeds_of_errcode_eq_zero (by decide) h h0
  obtain ⟨p, -, hp⟩ := Option.map_eq_some_iff.mp hsucc.result
  obtain ⟨rfl, rfl⟩ := Prod.mk.inj hp
  have hread : memReadBytes s.mem inBase s.msglen.toNat = some m := hsucc.message
  obtain ⟨hm, -⟩ := (readMessage_eq_some s m).mp hsucc.message
  have hwhole : m.length ≠ 0 ∧ m.length % 16 = 0 := by simpa [lengthFault, hm] using hsucc.length
  have hblocks : bytesOf (blocksOf (m.length / 16) m) = m := bytesOf_blocksOf _ _ (by omega)
  have hne : blocksOf (m.length / 16) m ≠ [] := List.ne_nil_of_length_pos (by rw [blocksOf_length]; omega)
  have hlast := memReadBytes_getLastD (mem := s.mem) (a := inBase) s.iv hne (by rw [hblocks, hm, hread])
  rw [hblocks] at hlast
  rwa [finishMessage_chain, lastBlock, ← hm]

/-- The CTR commands leave in CHAIN the counter after the last block (R710, R711). -/
theorem ctr_chain {i : Instr} {s t : State} (hi : i = .msgencCtr ∨ i = .msgdecCtr) (h : exec i s = .next t)
    (h0 : t.errcode = 0) : t.chain = ctrBlock s.iv (blockCount s.msglen.toNat) := by
  have hmem : i ∈ messageCommands := by rcases hi with rfl | rfl <;> decide
  obtain ⟨k, m, out, chain, hsucc, rfl⟩ := messageSucceeds_of_errcode_eq_zero hmem h h0
  have hm := (readMessage_eq_some s m).mp hsucc.message
  have hresult := hsucc.result.symm.trans (messageSucceeds_ctr hi hsucc.prologue hm).result
  obtain ⟨-, rfl⟩ := Prod.mk.inj (Option.some.inj hresult)
  rw [finishMessage_chain, hm.1]

/-- The checks of a message command do not see CHAIN. -/
theorem MessageFails.withChain {i : Instr} {s : State} {e : Code} (h : MessageFails i s e) (c : Block) :
    MessageFails i { s with chain := c } e := by
  cases h with
  | prologue hk => exact .prologue hk
  | length hk hlen => exact .length hk hlen
  | padding hk hlen hm hr => exact .padding hk hlen hm hr

/-- Nor does its success: it makes the same output and chaining value. -/
theorem MessageSucceeds.withChain {i : Instr} {s : State} {k : Schedule} {m out : List Byte} {chain : Block}
    (h : MessageSucceeds i s k m out chain) (c : Block) :
    MessageSucceeds i { s with chain := c } k m out chain :=
  ⟨h.prologue, h.length, h.message, h.result⟩

/-- No command reads CHAIN: from another value there it leaves all but CHAIN the same (R716). -/
theorem exec_withChain {i : Instr} {s t : State} (h : exec i s = .next t) (c : Block) :
    ∃ d : Block, exec i { s with chain := c } = .next { t with chain := d } := by
  by_cases hmsg : i ∈ messageCommands
  · rcases (exec_message_eq_next_iff hmsg s t).mp h with ⟨e, hfail, rfl⟩ | ⟨k, m, out, chain, hsucc, rfl⟩
    · exact ⟨c, (hfail.withChain c).exec_eq hmsg⟩
    · exact ⟨chain, (hsucc.withChain c).exec_eq hmsg⟩
  by_cases hblock : i = .encb ∨ i = .decb
  · cases hp : blockPrologue s with
    | error e =>
      cases (exec_block_of_error hblock hp).symm.trans h
      exact ⟨c, exec_block_of_error (s := { s with chain := c }) hblock hp⟩
    | ok k =>
      cases (exec_block_of_ok hblock hp).symm.trans h
      exact ⟨c, exec_block_of_ok (s := { s with chain := c }) hblock hp⟩
  refine ⟨c, ?_⟩
  cases i
  case keyexp =>
    rw [exec_keyexp] at h
    split at h
    next hlegal => cases h; exact if_pos hlegal
    next hillegal => cases h; exact if_neg hillegal
  case msgencCbc | msgdecCbc | msgencCtr | msgdecCtr => exact absurd (by decide) hmsg
  case encb | decb => exact absurd (by decide) hblock
  all_goals cases h; rfl

/-- Settles O47: CHAIN command by command, and that no command reads it. -/
theorem chainHoldsTheFinalChainingValue : Obligations.ChainHoldsTheFinalChainingValue := by
  refine fun i s t h => ⟨exec_keeps_chain h, fun h0 hi => ?enc, fun h0 hi => ?dec, fun h0 hi => ?ctr,
    exec_withChain h⟩
  case enc => subst hi; exact msgencCbc_chain h h0
  case dec => subst hi; exact msgdecCbc_chain h h0
  case ctr => rw [ctr_chain hi h h0, toNat_ctrBlock, blockCount]

end Sys2Proof.Machine

/-! When a command stops (60_exceptions.md, R824): a message command that has passed its checks meets an unwritten
byte of its message, and nothing else stops a command. -/

namespace Sys2Proof.Machine

/-- `MemRead(IN, 0, MSGLEN)` has no answer exactly where the message has an unwritten byte (R209, R824). -/
theorem readMessage_eq_none_iff (s : State) :
    readMessage s = none ↔ ∃ j, j < s.msglen.toNat ∧ memRead s.mem (inBase + j) = none := by
  constructor
  · exact memReadBytes_eq_none _ _ _
  · rintro ⟨j, hj, hnone⟩
    refine Option.eq_none_iff_forall_ne_some.mpr fun m hm => ?_
    obtain ⟨hlen, hbytes⟩ := (readMessage_eq_some s m).mp hm
    have hj : j < m.length := hlen ▸ hj
    have hsome : memRead s.mem (inBase + j) = some m[j] := (hbytes j hj).trans (List.getElem?_eq_getElem hj)
    exact Option.some_ne_none _ (hsome.symm.trans hnone)

/-- The length check passes: MSGENC.CBC has room for the padding, MSGDEC.CBC a positive number of whole blocks, and
the CTR commands make no such check (R708 to R711). -/
theorem lengthFault_eq_none_iff (i : Instr) (s : State) :
    lengthFault i s = none ↔
      (i = .msgencCbc → paddedLen s.msglen.toNat ≤ s.cfg.msgbufBytes) ∧
      (i = .msgdecCbc → s.msglen.toNat ≠ 0 ∧ s.msglen.toNat % 16 = 0) := by
  unfold lengthFault
  split
  next => simp
  next => simp
  next henc hdec => exact iff_of_true rfl ⟨fun h => (henc h).elim, fun h => (hdec h).elim⟩

/-- When a message command stops: it passes its checks and its message has an unwritten byte (R824). -/
theorem exec_message_eq_fault_iff {i : Instr} (hi : i ∈ messageCommands) (s : State) :
    exec i s = .fault .uninitRead ↔
      (∃ k, msgPrologue s = .ok k) ∧ lengthFault i s = none ∧ readMessage s = none := by
  rw [exec_message hi]
  constructor
  · intro h
    unfold runMessage at h
    split at h
    next => cases h
    next k hk =>
      split at h
      next => cases h
      next hlen hread => exact ⟨⟨k, hk⟩, hlen, hread⟩
      next => split at h <;> cases h
  · rintro ⟨⟨k, hk⟩, hlen, hread⟩
    simp only [runMessage, hk, hlen, hread]

/-- Settles O41: every command goes on or is a message command that stops at an unwritten byte, and behind passed
checks such a byte does stop it. -/
theorem onlyUnwrittenInputStopsACommand : Obligations.OnlyUnwrittenInputStopsACommand := by
  refine ⟨fun i s r h => ?fault, fun i s r h => ?refused, fun i s k j hi hk hiv hbuf henc hdec hj hnone => ?stops⟩
  case fault =>
    rcases exec_stops i s with ⟨t, hnext⟩ | ⟨hfault, hi, hread⟩
    · cases hnext.symm.trans h
    · cases hfault.symm.trans h
      exact ⟨rfl, hi, (readMessage_eq_none_iff s).mp hread⟩
  case refused =>
    rcases exec_stops i s with ⟨t, hnext⟩ | ⟨hfault, -, -⟩
    · cases hnext.symm.trans h
    · cases hfault.symm.trans h
  case stops =>
    have hok := (msgPrologue_eq_ok s k).mpr ⟨hk, hiv, hbuf⟩
    have hlen := (lengthFault_eq_none_iff i s).mpr ⟨henc, fun h => ⟨Nat.ne_zero_of_lt hj, hdec h⟩⟩
    have hread := (readMessage_eq_none_iff s).mpr ⟨j, hj, hnone⟩
    exact (exec_message_eq_fault_iff hi s).mpr ⟨⟨k, hok⟩, hlen, hread⟩

end Sys2Proof.Machine

/-! The decoder as the inverse of the encoder (R304, R305): the fields that the decoder reads a command from are the
command's row of the table, and a word is its fields. -/

namespace Sys2Proof

/-- Every MODE of OP 0x10 selects the row with that MODE (R302, R304). -/
@[simp] theorem encodeFields_decodeMsgenc : ∀ mode : BitVec 4,
    encodeFields (decodeMsgenc mode) = msgFields 0x10 mode := by decide

/-- Every MODE of OP 0x11 selects the row with that MODE (R302, R304). -/
@[simp] theorem encodeFields_decodeMsgdec : ∀ mode : BitVec 4,
    encodeFields (decodeMsgdec mode) = msgFields 0x11 mode := by decide

/-- An OP outside the message operations selects the row with that OP (R304). -/
theorem encodeFields_of_decodePlain {op : BitVec 8} {i : Instr} (h : decodePlain op = .ok i) :
    encodeFields i = plainFields op := by
  unfold decodePlain at h
  split at h
  case h_9 => cases h
  all_goals
    next hop =>
      cases h
      exact congrArg plainFields (BitVec.eq_of_toNat_eq hop.symm)

/-- The verdicts of R305: an accepted word has the fields of the command's row. -/
theorem eq_encodeFields_of_decodeFields {f : CmdFields} {i : Instr} (h : decodeFields f = .ok i) :
    f = encodeFields i := by
  obtain ⟨rsvd, mode, op⟩ := f
  simp only [decodeFields, ne_eq, ite_not] at h
  split at h
  case isFalse => cases h
  next hrsvd =>
    subst hrsvd
    split at h
    next hop => cases h; rw [encodeFields_decodeMsgenc, hop]; rfl
    split at h
    next hop => cases h; rw [encodeFields_decodeMsgdec, hop]; rfl
    split at h
    next hmode => rw [encodeFields_of_decodePlain h, hmode]; rfl
    next => cases h

/-- The decoder reads each command back from its word (R304, R305). -/
theorem decode_encode (i : Instr) : decode (encode i) = .ok i := by
  cases i <;> rfl

/-- Settles O2: a word is put together from its fields, and those of an accepted word are the command's row. -/
theorem decodeReadsExactlyTheEncodedWord : Obligations.DecodeReadsExactlyTheEncodedWord := by
  refine fun w i => ⟨fun h => ?_, fun h => h ▸ decode_encode i⟩
  calc w = wordOf (fieldsOf w) := (wordOf_fieldsOf w).symm
    _ = encode i := congrArg wordOf (eq_encodeFields_of_decodeFields h)

/-- Settles O1: the eight words are those the encoder writes. -/
theorem sampleWordsDecode : Obligations.SampleWordsDecode :=
  ⟨decode_encode .nop, decode_encode .keyexp, decode_encode .decb, decode_encode .isbox, decode_encode .msgencCbc,
    decode_encode .msgdecCtr, decode_encode .msgenc2, decode_encode .msgdec15⟩

end Sys2Proof

/-! What every step keeps of the buffer memory (R135, R204, R208): the two places that store bytes, an IN word of the
host and the output of a message command, store them inside IN and OUT. -/

namespace Sys2Proof.Machine

/-- A one-byte write inside IN or OUT stores nothing outside them (R204). -/
theorem memInBuffers_memWrite {c : Config} {m : Memory} {a : Nat} {v : Byte} (hm : memInBuffers c m = true)
    (ha : (inBuffer c a || outBuffer c a) = true) : memInBuffers c (memWrite m a v) = true := by
  rw [memInBuffers, List.all_eq_true] at hm ⊢
  intro cell hcell
  rcases mem_memWrite m a v cell hcell with rfl | hold
  · exact ha
  · exact hm cell hold

/-- A write whose addresses all lie in IN or OUT stores nothing outside them (R204, R208). -/
theorem memInBuffers_memWriteBytes {c : Config} {m : Memory} {a : Nat} {bs : List Byte} (hm : memInBuffers c m = true)
    (ha : ∀ i < bs.length, (inBuffer c (a + i) || outBuffer c (a + i)) = true) :
    memInBuffers c (memWriteBytes m a bs) = true := by
  induction bs generalizing m a with
  | nil => exact hm
  | cons v vs ih =>
    refine ih (memInBuffers_memWrite hm (ha 0 (Nat.zero_lt_succ _))) fun i hi => ?_
    rw [Nat.add_assoc, Nat.add_comm 1 i]
    exact ha (i + 1) (Nat.succ_lt_succ hi)

/-- The four bytes of an aligned word of IN lie in IN: a build has whole words (R11, R202). -/
theorem inBuffer_add {c : Config} {a i : Nat} (ha : a % 4 = 0) (hin : inBuffer c a = true) (hi : i < 4) :
    inBuffer c (a + i) = true := by
  have hsize := msgbufBytes_bounds c
  rw [inBuffer_iff] at hin ⊢
  omega

/-- A write of the idle engine stores in IN only, and keeps the canonical form (R128, R135). -/
theorem memoryInv_writeTarget {s : State} {a : Nat} (v : Word) (hs : MemoryInv s) (ha : a % 4 = 0) :
    MemoryInv (writeTarget a v s) := by
  obtain ⟨hwf, hbuf⟩ := hs
  unfold writeTarget
  cases e : targetOf s.cfg a with
  | inBuf =>
    have hat := targetOf_standsAt s.cfg a ha
    rw [e] at hat
    refine ⟨memWf_memWriteBytes _ _ _ hwf, memInBuffers_memWriteBytes hbuf fun i hi => ?_⟩
    rw [inBuffer_add ha ((inBuffer_iff _ _).mpr hat) hi, Bool.true_or]
  | _ => exact ⟨hwf, hbuf⟩

/-- A command stores its output in OUT only, and keeps the canonical form (R129, R208). -/
theorem memoryInv_exec {i : Instr} {s t : State} (hs : MemoryInv s) (h : exec i s = .next t) : MemoryInv t := by
  obtain ⟨hwf, hbuf⟩ := hs
  rcases exec_cases i s t h with ⟨_, -, -, rfl⟩ | ⟨_, -, -, rfl⟩ | ⟨-, rfl⟩ | ⟨-, -, rfl⟩ |
    ⟨-, _, rfl⟩ | ⟨-, _, _, -, -, rfl⟩ | ⟨-, _, _, out, _, -, -, -, -, hfits, rfl⟩
  case inr.inr.inr.inr.inr.inr =>
    refine ⟨memWf_memWriteBytes out _ _ hwf, memInBuffers_memWriteBytes hbuf fun i hi => ?_⟩
    have hout : outBuffer s.cfg (outBase + i) = true := by rw [outBuffer_iff, outBase]; omega
    rw [finishMessage_cfg, hout, Bool.or_true]
  all_goals exact ⟨hwf, hbuf⟩

/-- Settles O11, event by event: only an IN write and a message command's output store bytes. -/
theorem memoryInvariantKept : Obligations.MemoryInvariantKept :=
  step_keeps MemoryInv (fun _ _ _ _ hs => hs) (fun _ _ v hs _ ha => memoryInv_writeTarget v hs ha)
    (fun _ hs => hs) (fun _ _ => ⟨rfl, rfl⟩) (fun _ _ hs _ => hs) (fun _ _ _ _ hs _ h => memoryInv_exec hs h)

end Sys2Proof.Machine

/-! The engine's turn and the agenda (R400 to R404, R100): what a step does for each event, that every command ends
with one completion, the invariants of STATUS, and the accesses made while a command waits. -/

namespace Sys2Proof.Machine

/-! ### Steps -/

/-- A step takes the head of the agenda (R100; log entry 2). -/
theorem step_of_agenda {s : State} {e : Event} {rest : List Event} (h : s.agenda = e :: rest) :
    step s = runEvent e { s with agenda := rest, resp := none } := by
  simp only [step, nextEvent, takeEvent, h, List.headD_cons, List.tail_cons]

theorem engineTurn_of_pending {s : State} {w : Word} (h : s.pending = some w) : engineTurn s = executeWord w s := by
  rw [engineTurn, h]

theorem engineTurn_of_idle {s : State} (h : s.pending = none) : engineTurn s = .next s := by
  rw [engineTurn, h]

theorem executeWord_of_decoded {w : Word} {i : Instr} (h : decode w = .ok i) (s : State) :
    executeWord w s = exec i s := by
  rw [executeWord, h]

/-- Settles O4: the engine's turn executes the pending word, which is the command it decodes to. -/
theorem stepRunsTheDecodedInstruction : Obligations.StepRunsTheDecodedInstruction := by
  intro s w i hw hturn hi
  calc step s = engineTurn (takeEvent s) := by rw [step, hturn]; rfl
    _ = executeWord w (takeEvent s) := engineTurn_of_pending hw
    _ = exec i (takeEvent s) := executeWord_of_decoded hi _

/-- Settles O5: each clause is the head of the agenda run. -/
theorem stepTakesTheNextEvent : Obligations.StepTakesTheNextEvent := fun _ _ =>
  ⟨fun _ h => step_of_agenda h, fun h => step_of_agenda h, fun h => step_of_agenda h,
    fun h hidle => (step_of_agenda h).trans (engineTurn_of_idle hidle)⟩

/-! ### Completion -/

/-- `t` is `s` after some command has completed with code `c` (R404): what `complete(c)` leaves in STATUS and
`pending`, whatever results the command wrote before it. -/
structure CompletedWith (c : Code) (s t : State) : Prop where
  busy : t.busy = false
  done : t.done = true
  err : t.err = (codeBits c != 0)
  errcode : t.errcode = codeBits c
  pending : t.pending = none
  cmd : t.cmd = s.cmd

theorem completedWith_complete (c : Code) (s : State) : CompletedWith c s (complete c s) :=
  ⟨rfl, rfl, rfl, rfl, rfl, rfl⟩

/-- Every command that goes on completes with one code (R402, R404). -/
theorem exec_completes {i : Instr} {s t : State} (h : exec i s = .next t) : ∃ c, CompletedWith c s t := by
  rcases exec_cases i s t h with ⟨c, -, -, rfl⟩ | ⟨c, -, -, rfl⟩ | ⟨-, rfl⟩ | ⟨-, -, rfl⟩ |
    ⟨-, _, rfl⟩ | ⟨-, _, _, -, -, rfl⟩ | ⟨-, _, _, _, _, -, -, -, -, -, rfl⟩
  · exact ⟨c, completedWith_complete c s⟩
  · exact ⟨c, ⟨rfl, rfl, rfl, rfl, rfl, rfl⟩⟩
  all_goals exact ⟨.success, ⟨rfl, rfl, rfl, rfl, rfl, rfl⟩⟩

/-- So does the execution of any word, legal or not (R402, R807). -/
theorem executeWord_completes {w : Word} {s t : State} (h : executeWord w s = .next t) :
    ∃ c, CompletedWith c s t := by
  unfold executeWord at h
  split at h
  · cases h
    exact ⟨.illegalCommand, completedWith_complete _ s⟩
  · exact exec_completes h

/-- The codes of R801 leave bit 3 of ERRCODE 0 (R111). -/
theorem codeBits_toNat_lt (c : Code) : (codeBits c).toNat < 8 := by
  cases c <;> decide

theorem CompletedWith.errorInv {c : Code} {s t : State} (h : CompletedWith c s t) : ErrorInv t := by
  rw [ErrorInv, h.err, h.errcode, bne_iff_ne]
  exact ⟨Iff.rfl, codeBits_toNat_lt c⟩

theorem lifecycleInv_of_idle {s : State} (hb : s.busy = false) (hp : s.pending = none) : LifecycleInv s :=
  ⟨fun hbusy => absurd hbusy (by simp [hb]), fun _ => hp⟩

theorem CompletedWith.lifecycleInv {c : Code} {s t : State} (h : CompletedWith c s t) : LifecycleInv t :=
  lifecycleInv_of_idle h.busy h.pending

/-- Settles O8: the pending word is executed, and every word's execution ends in a completion. -/
theorem executeLeavesTheEngineIdle : Obligations.ExecuteLeavesTheEngineIdle := by
  intro s t w hw h
  rw [engineTurn_of_pending hw] at h
  obtain ⟨c, hc⟩ := executeWord_completes h
  exact ⟨hc.busy, hc.done, hc.pending, hc.cmd, hc.errorInv.1⟩

/-! ### The invariants of STATUS -/

theorem lifecycleInv_assertReset (s : State) : LifecycleInv (assertReset s) := lifecycleInv_of_idle rfl rfl

theorem errorInv_assertReset (s : State) : ErrorInv (assertReset s) := by
  rw [ErrorInv, assertReset_err, assertReset_errcode]
  decide

/-- A write to CMD makes the word pending and clears STATUS; no other write reaches them (R131, R401). -/
theorem lifecycleInv_writeTarget {s : State} (a : Nat) (v : Word) (hs : LifecycleInv s) :
    LifecycleInv (writeTarget a v s) := by
  unfold writeTarget
  cases targetOf s.cfg a with
  | cmd => exact ⟨fun _ => ⟨rfl, rfl, rfl, rfl⟩, fun hidle => absurd hidle (by simp)⟩
  | _ => exact hs

/-- An issue clears ERR and ERRCODE; no other write reaches them (R401). -/
theorem errorInv_writeTarget {s : State} (a : Nat) (v : Word) (hs : ErrorInv s) :
    ErrorInv (writeTarget a v s) := by
  unfold writeTarget
  cases targetOf s.cfg a with
  | cmd => rw [ErrorInv, issue_err, issue_errcode]; decide
  | _ => exact hs

/-- Settles O9, event by event: an issue and a completion set what the invariants speak of, a reset clears it. -/
theorem statusInvariantsKept : Obligations.StatusInvariantsKept := by
  refine ⟨step_keeps LifecycleInv (fun _ _ _ _ hs => hs) (fun _ a v hs _ _ => lifecycleInv_writeTarget a v hs)
      (fun s _ => lifecycleInv_assertReset s) (fun s _ => lifecycleInv_assertReset s)
      (fun s _ _ _ => (completedWith_complete _ s).lifecycleInv) fun _ _ _ _ _ _ h => ?lifecycle,
    step_keeps ErrorInv (fun _ _ _ _ hs => hs) (fun _ a v hs _ _ => errorInv_writeTarget a v hs)
      (fun s _ => errorInv_assertReset s) (fun s _ => errorInv_assertReset s)
      (fun s _ _ _ => (completedWith_complete _ s).errorInv) fun _ _ _ _ _ _ h => ?error⟩
  case lifecycle => exact (exec_completes h).elim fun _ hc => hc.lifecycleInv
  case error => exact (exec_completes h).elim fun _ hc => hc.errorInv

/-- Settles O12: the state after power-on is one that a reset leaves, with an empty memory. -/
theorem resetMeetsTheInvariants : Obligations.ResetMeetsTheInvariants :=
  ⟨lifecycleInv_assertReset State.reset, errorInv_assertReset State.reset,
    cacheInv_of_not_ksvalid State.reset rfl, memWf_reset, rfl⟩

/-! ### Accesses while a command waits -/

/-- While BUSY = 1 an access does nothing but answer (R202, R212). -/
theorem hostAccess_busy (x : Access) {s : State} (hb : s.busy = true) :
    ∃ r, hostAccess x s = { s with resp := r } := by
  cases x with
  | read a =>
    by_cases ha : a.toNat % 4 = 0
    · exact ⟨_, hostRead_busy a s ha hb⟩
    · exact ⟨_, hostRead_misaligned a s ha⟩
  | write a v =>
    by_cases ha : a.toNat % 4 = 0
    · exact ⟨_, hostWrite_busy a v s ha hb⟩
    · exact ⟨_, hostWrite_misaligned a v s ha⟩

theorem run_succ_of_next (M : Host.Core) {n : Nat} {s t : M.State} (h : M.step s = .next t) :
    M.run (n + 1) s = M.run n t := by
  rw [Host.Core.run, h]

theorem run_one (M : Host.Core) (s : M.State) : M.run 1 s = M.step s := by
  rw [Host.Core.run]
  cases M.step s <;> rfl

/-- Settles O13, by induction on the accesses: each leaves the engine as it was, and then comes the engine's turn. -/
theorem pendingCommandRunsOnItsInputs : Obligations.PendingCommandRunsOnItsInputs := by
  intro s w xs rest hb hw hagenda
  induction xs generalizing s with
  | nil =>
    have hturn : step s = engineTurn { s with agenda := rest, resp := none } := step_of_agenda hagenda
    exact (run_one core s).trans (hturn.trans (engineTurn_of_pending hw))
  | cons x xs ih =>
    obtain ⟨r, hr⟩ := hostAccess_busy x (s := { s with agenda := xs.map .access ++ .engine :: rest, resp := none }) hb
    have hstep : step s = .next { s with agenda := xs.map .access ++ .engine :: rest, resp := r } :=
      (step_of_agenda hagenda).trans (congrArg Host.Outcome.next hr)
    exact (run_succ_of_next core hstep).trans (ih _ hb hw rfl)

/-! ### Steps that go on -/

/-- A command whose message is written goes on (R824). -/
theorem exec_goesOn (i : Instr) {s : State} (hs : InputWritten s) : ∃ t, exec i s = .next t := by
  rcases exec_stops i s with hnext | ⟨-, -, hread⟩
  · exact hnext
  · obtain ⟨j, hj, hnone⟩ := (readMessage_eq_none_iff s).mp hread
    exact absurd hnone (hs j hj)

/-- Settles O14: only a command can stop a step, and its message is written. -/
theorem writtenInputNeverStops : Obligations.WrittenInputNeverStops := by
  intro s hs
  rw [GoesOn, step]
  cases nextEvent s with
  | access | reset | powerOn => exact ⟨_, rfl⟩
  | engine =>
    simp only [runEvent, engineTurn, executeWord]
    split
    · exact ⟨_, rfl⟩
    · split
      · exact ⟨_, rfl⟩
      · exact exec_goesOn _ hs

end Sys2Proof.Machine

/-! GF(2^8) as polynomials over GF(2) modulo x^8 + x^4 + x^3 + x + 1 (R430 to R435). Both the product of bytes and that
of polynomials are additive in an operand, so they agree on all bytes once they agree on the powers of x. -/

namespace Sys2Proof.Machine

section
open Polynomial

/-- The polynomial of a byte: bit i is the coefficient of x^i (R430). -/
noncomputable def bytePoly (v : Byte) : (ZMod 2)[X] :=
  ∑ i ∈ Finset.range 8, if v.getLsbD i then X ^ i else 0

/-- The reduction polynomial of R432. -/
noncomputable def fieldPoly : (ZMod 2)[X] :=
  X ^ 8 + X ^ 4 + X ^ 3 + X + 1

/-! ### The polynomials of bytes -/

/-- XOR is the sum of polynomials (R431). -/
theorem bytePoly_xor (a b : Byte) : bytePoly (a ^^^ b) = bytePoly a + bytePoly b := by
  simp only [bytePoly, ← Finset.sum_add_distrib, BitVec.getLsbD_xor]
  refine Finset.sum_congr rfl fun i _ => ?_
  cases a.getLsbD i <;> cases b.getLsbD i <;> simp [CharTwo.add_self_eq_zero]

theorem getLsbD_bit : ∀ i < 8, ∀ j < 8, (1#8 <<< i).getLsbD j = decide (i = j) := by
  decide

/-- The byte of bit i is x^i. -/
theorem bytePoly_bit {i : Nat} (hi : i < 8) : bytePoly (1#8 <<< i) = X ^ i := by
  have hbit (j : Nat) (hj : j ∈ Finset.range 8) :
      (if (1#8 <<< i).getLsbD j then (X : (ZMod 2)[X]) ^ j else 0) = if i = j then X ^ j else 0 := by
    simp only [getLsbD_bit i hi j (Finset.mem_range.mp hj), decide_eq_true_eq]
  rw [bytePoly, Finset.sum_congr rfl hbit, Finset.sum_ite_eq, if_pos (Finset.mem_range.mpr hi)]

/-- A byte is a remainder: its degree is below 8 (R432). -/
theorem degree_bytePoly_lt (v : Byte) : (bytePoly v).degree < 8 := by
  refine mem_degreeLT.mp (Submodule.sum_mem _ fun i hi => ?_)
  split
  · rw [mem_degreeLT, degree_X_pow]
    exact_mod_cast Finset.mem_range.mp hi
  · exact Submodule.zero_mem _

theorem fieldPoly_monic : fieldPoly.Monic := by
  unfold fieldPoly
  monicity!

theorem degree_fieldPoly : fieldPoly.degree = 8 := by
  unfold fieldPoly
  compute_degree!

theorem bytePoly_modByMonic (v : Byte) : bytePoly v %ₘ fieldPoly = bytePoly v :=
  (modByMonic_eq_self_iff fieldPoly_monic).mpr (degree_fieldPoly ▸ degree_bytePoly_lt v)

/-! ### Additive maps of bytes -/

/-- `f` takes XOR to the sum of polynomials. -/
def XorAdditive (f : Byte → (ZMod 2)[X]) : Prop :=
  ∀ a b, f (a ^^^ b) = f a + f b

theorem XorAdditive.map_zero {f : Byte → (ZMod 2)[X]} (hf : XorAdditive f) : f 0 = 0 := by
  have h : f 0 = f 0 + f 0 := hf 0 0
  rwa [left_eq_add] at h

/-- Additive maps that agree on the eight bytes of one bit agree on every byte. -/
theorem XorAdditive.ext {f g : Byte → (ZMod 2)[X]} (hf : XorAdditive f) (hg : XorAdditive g)
    (bits : ∀ i < 8, f (1#8 <<< i) = g (1#8 <<< i)) (a : Byte) : f a = g a := by
  rw [byte_eq_sum_of_bits a]
  refine List.foldrRecOn (motive := fun p => f p = g p) _ _ (hf.map_zero.trans hg.map_zero.symm)
    fun p hp i hi => ?_
  rw [hf, hg, hp]
  split
  · rw [bits i (List.mem_range.mp hi)]
  · rw [hf.map_zero, hg.map_zero]

/-- The polynomial of a byte, multiplied and reduced, is additive. -/
theorem xorAdditive_mul_modByMonic (p : (ZMod 2)[X]) :
    XorAdditive fun b => (p * bytePoly b) %ₘ fieldPoly := by
  intro a b
  simp only [bytePoly_xor, mul_add, add_modByMonic]

/-! ### The product -/

/-- A factor may be reduced before the product is. -/
theorem mul_mod_fieldPoly (p q : (ZMod 2)[X]) :
    (p * (q %ₘ fieldPoly)) %ₘ fieldPoly = (p * q) %ₘ fieldPoly := by
  have hmod : (q %ₘ fieldPoly) %ₘ fieldPoly = q %ₘ fieldPoly :=
    (modByMonic_eq_self_iff fieldPoly_monic).mpr (degree_modByMonic_lt q fieldPoly_monic)
  rw [mul_modByMonic, hmod, ← mul_modByMonic]

/-- 0x1B is the remainder of x^8 (R434). -/
theorem bytePoly_remainder : bytePoly 0x1B = X ^ 4 + X ^ 3 + X + 1 := by
  have hbits : (0x1B : Byte) = 1#8 <<< 4 ^^^ 1#8 <<< 3 ^^^ 1#8 <<< 1 ^^^ 1#8 <<< 0 := rfl
  simp only [hbits, bytePoly_xor, bytePoly_bit, Nat.reduceLT, pow_one, pow_zero]

/-- Doubling takes each bit but the last to the next one (R434). -/
theorem xtime_bit : ∀ i < 7, xtime (1#8 <<< i) = 1#8 <<< (i + 1) := by
  decide

/-- Doubling a byte is multiplication by x: x^8 leaves the remainder 0x1B (R434). -/
theorem bytePoly_xtime (a : Byte) : bytePoly (xtime a) = (X * bytePoly a) %ₘ fieldPoly := by
  refine XorAdditive.ext (f := fun a => bytePoly (xtime a)) (fun a b => ?_) (xorAdditive_mul_modByMonic X)
    (fun i hi => ?_) a
  · simp only [xorLinear_xtime a b, bytePoly_xor]
  rw [bytePoly_bit hi, ← pow_succ']
  by_cases h7 : i = 7
  · subst h7
    have hred : (X : (ZMod 2)[X]) ^ 8 = fieldPoly + bytePoly 0x1B := by
      have hcancel := CharTwo.add_self_eq_zero (X ^ 4 + X ^ 3 + X + 1 : (ZMod 2)[X])
      rw [bytePoly_remainder, fieldPoly]
      linear_combination -hcancel
    rw [hred, add_modByMonic, modByMonic_self fieldPoly_monic, zero_add, bytePoly_modByMonic]
    rfl
  · rw [xtime_bit i (by omega), ← bytePoly_bit (i := i + 1) (by omega), bytePoly_modByMonic]

/-- The product with the byte of bit i is the product with x^i, by doubling i times (R433). -/
theorem bytePoly_gmul_bit (a : Byte) {i : Nat} (hi : i < 8) :
    bytePoly (gmul a (1#8 <<< i)) = (bytePoly a * X ^ i) %ₘ fieldPoly := by
  induction i with
  | zero =>
    rw [show 1#8 <<< 0 = 1 from rfl, gmul_one, pow_zero, mul_one, bytePoly_modByMonic]
  | succ i ih =>
    calc bytePoly (gmul a (1#8 <<< (i + 1)))
        = bytePoly (xtime (gmul a (1#8 <<< i))) := by
          rw [← xtime_bit i (by omega), ← gmul_two, ← gmul_assoc, gmul_two]
      _ = (X * ((bytePoly a * X ^ i) %ₘ fieldPoly)) %ₘ fieldPoly := by rw [bytePoly_xtime, ih (by omega)]
      _ = (bytePoly a * X ^ (i + 1)) %ₘ fieldPoly := by rw [mul_mod_fieldPoly, mul_left_comm, ← pow_succ']

/-- The product of bytes is the reduced product of their polynomials (R433). -/
theorem bytePoly_gmul (a b : Byte) : bytePoly (gmul a b) = (bytePoly a * bytePoly b) %ₘ fieldPoly := by
  refine XorAdditive.ext (f := fun b => bytePoly (gmul a b)) (fun b c => ?_) (xorAdditive_mul_modByMonic (bytePoly a))
    (fun i hi => ?_) b
  · simp only [gmul_xor, bytePoly_xor]
  · rw [bytePoly_gmul_bit a hi, bytePoly_bit hi]

end

/-- Settles O19: the sum and the polynomial of the statement are `bytePoly` and `fieldPoly`. -/
theorem gmulIsThePolynomialProduct : Obligations.GmulIsThePolynomialProduct := bytePoly_gmul

/-- Settles O20: the laws that the field commands rest on. -/
theorem gmulIsACommutativeRingProduct : Obligations.GmulIsACommutativeRingProduct := ⟨gmul_comm, gmul_assoc, gmul_xor⟩

/-- Settles O21: `inv` gives such a byte, and a nonzero factor cancels. -/
theorem inverseIsUnique : Obligations.InverseIsUnique := fun a _ ha =>
  ⟨fun h => gmul_left_cancel ha (h.trans (gmul_ginv a ha).symm), fun h => h ▸ gmul_ginv a ha⟩

end Sys2Proof.Machine

/-! The key bytes that the expansion reads (R122, R508), and that Cipher and InvCipher are inverse bijections, for one
block and at the port (R613). -/

namespace Sys2Proof.Machine

/-! ### The key -/

/-- The words of the key are decided by its first KEYLEN bytes (R501). -/
theorem keyWords_congr {k₁ k₂ : KeyReg} {nk : Nat} (hnk : nk ≤ 8)
    (h : ∀ i, i < 4 * nk → keyByte k₁ i = keyByte k₂ i) : keyWords k₁ nk = keyWords k₂ nk := by
  refine List.map_congr_left fun j hj => word_ext _ _ fun i hi => ?_
  have hj : j < nk := List.mem_range.mp hj
  rw [wordByte_keyWord _ _ _ (by omega) hi, wordByte_keyWord _ _ _ (by omega) hi, h _ (by omega)]

/-- The key enters the expansion only as its first words (R505). -/
theorem expand_congr {k₁ k₂ : KeyReg} {n : Nat} (h : keyWords k₁ (nkOf n) = keyWords k₂ (nkOf n)) :
    expand k₁ n = expand k₂ n := by
  rw [expand, expand, expandWords, expandWords, h]

/-- Settles O25: the expansion reads the words of the key, and they end at byte KEYLEN. -/
theorem keyBytesPastKeylenAreIgnored : Obligations.KeyBytesPastKeylenAreIgnored := by
  intro k₁ k₂ n hn hbytes
  have hnk : nkOf n ≤ 8 ∧ 4 * nkOf n = n := by unfold nkOf; omega
  exact expand_congr (keyWords_congr hnk.1 fun i hi => hbytes i (by omega))

/-! ### Cipher and InvCipher -/

/-- Cipher is a bijection on the finitely many blocks, so its inverse on one side is that on the other (R613). -/
@[simp] theorem cipher_invCipher (k : Schedule) (b : Block) : cipher k (invCipher k b) = b := by
  have hfinite : Finite Block := Finite.of_injective BitVec.toFin fun _ _ => BitVec.toFin_inj.mp
  have hsurj : Function.Surjective (cipher k) := Finite.surjective_of_injective (cipher_injective k)
  exact (show Function.LeftInverse (invCipher k) (cipher k) from invCipher_cipher k).rightInverse_of_surjective hsurj b

/-- Settles O30: the rounds undone one by one, and the finiteness of the blocks. -/
theorem cipherAndInvCipherAreInverse : Obligations.CipherAndInvCipherAreInverse :=
  fun k b => ⟨invCipher_cipher k b, cipher_invCipher k b⟩

/-- A schedule that stands in the cache is the one a command uses (R508). -/
theorem hasSchedule_of_cached {s : State} {k : Schedule} (hvalid : s.ksvalid = true) (hrk : s.rk = k.rk)
    (hnr : s.ksNr = k.nr) : HasSchedule s k :=
  .inl ⟨hvalid, by rw [hrk, hnr]⟩

/-- Settles O31: ENCB leaves its schedule in the cache, DECB uses it, and InvCipher undoes Cipher. -/
theorem encbThenDecbRestoresTheBlock : Obligations.EncbThenDecbRestoresTheBlock := by
  intro s u k hk hlen
  have hencb := exec_block_of_ok (.inl rfl) ((blockPrologue_eq_ok s k).mpr ⟨hk, hlen⟩)
  refine ⟨_, hencb, rfl, fun hblk hblklen hvalid hrk hnr => ?_⟩
  have hu : HasSchedule u k := hasSchedule_of_cached hvalid hrk hnr
  have hdecb := exec_block_of_ok (.inr rfl) ((blockPrologue_eq_ok u k).mpr ⟨hu, hblklen.trans hlen⟩)
  refine ⟨_, hdecb, rfl, ?_⟩
  calc invCipher k u.blkin = invCipher k (cipher k s.blkin) := congrArg (invCipher k) hblk
    _ = s.blkin := invCipher_cipher k s.blkin

end Sys2Proof.Machine

/-! What a write of a byte string stores (R208), and what the commands leave unchanged: one case for each family of
commands (R110 to R129, R811). -/

namespace Sys2Proof.Machine

/-! ### Byte strings in memory -/

/-- Every byte of memory after a byte string is written (R208). -/
theorem memRead_memWriteBytes (m : Memory) (a : Nat) (bs : List Byte) (b : Nat) :
    memRead (memWriteBytes m a bs) b = if a ≤ b ∧ b < a + bs.length then bs[b - a]? else memRead m b := by
  split
  next h =>
    obtain ⟨-, hbytes⟩ := memReadBytes_eq_some _ _ _ _ (memReadBytes_memWriteBytes m a bs)
    have hb := hbytes (b - a) (by omega)
    rwa [Nat.add_sub_cancel' h.1] at hb
  next h =>
    by_cases hlow : b < a
    · exact memRead_memWriteBytes_below bs m a b hlow
    · exact memRead_memWriteBytes_above bs m a b (by omega)

/-- Byte `i` of a byte string that was written (R208). -/
theorem memRead_memWriteBytes_add (m : Memory) (a : Nat) (bs : List Byte) {i : Nat} (hi : i < bs.length) :
    memRead (memWriteBytes m a bs) (a + i) = bs[i]? := by
  rw [memRead_memWriteBytes, if_pos (by omega), Nat.add_sub_cancel_left]

/-- Settles O43: the bytes one by one, and the string read back. -/
theorem memWriteStoresExactlyItsBytes : Obligations.MemWriteStoresExactlyItsBytes :=
  fun m a bs => ⟨memRead_memWriteBytes m a bs, memReadBytes_memWriteBytes m a bs⟩

/-! ### Frames of the commands -/

/-- Settles O42: a failure is one of the two records of `complete` and `fail`, and no other outcome has a code. -/
theorem failedCommandChangesOnlyStatus : Obligations.FailedCommandChangesOnlyStatus := by
  intro i s t h h0
  rcases exec_cases i s t h with ⟨c, hc, hi, rfl⟩ | ⟨c, hc, hi, rfl⟩ | ⟨-, rfl⟩ | ⟨-, -, rfl⟩ |
    ⟨-, _, rfl⟩ | ⟨-, _, _, -, -, rfl⟩ | ⟨-, _, _, _, _, -, -, -, -, -, rfl⟩
  · rw [complete_eq, decide_eq_true hc, if_neg hi]
  · rw [failMsg_eq, decide_eq_true hc, if_pos hi]
  all_goals exact absurd rfl h0

/-- OUTLEN holds the length of every output that fits in the buffer (R12, R117). -/
theorem toNat_outlen_of_fits {c : Config} {out : List Byte} (h : out.length ≤ c.msgbufBytes) :
    (BitVec.ofNat 17 out.length).toNat = out.length := by
  have hsize := msgbufBytes_bounds c
  rw [BitVec.toNat_ofNat]
  omega

/-- Settles O44: only a message command that succeeds stores bytes, and it stores its output. -/
theorem commandsStoreOnlyTheirOutput : Obligations.CommandsStoreOnlyTheirOutput := by
  intro i s t h
  rcases exec_cases i s t h with ⟨_, -, -, rfl⟩ | ⟨_, -, -, rfl⟩ | ⟨-, rfl⟩ | ⟨-, -, rfl⟩ |
    ⟨-, _, rfl⟩ | ⟨-, _, _, -, -, rfl⟩ | ⟨hi, _, _, out, _, -, -, -, -, hfits, rfl⟩
  case inr.inr.inr.inr.inr.inr =>
    refine ⟨fun a ha => ?outside, fun hkeep => absurd hkeep (not_or.mpr ⟨not_not.mpr hi, not_not.mpr rfl⟩)⟩
    case outside =>
      rw [finishMessage_outlen, toNat_outlen_of_fits hfits] at ha
      rw [finishMessage_mem, memRead_memWriteBytes]
      exact if_neg ha
  all_goals exact ⟨fun _ _ => rfl, fun _ => rfl⟩

/-- No byte of IN is a byte of OUT (R204). -/
theorem lt_outBase_of_inBuffer {c : Config} {a : Nat} (h : inBuffer c a = true) : a < outBase := by
  have hsize := msgbufBytes_bounds c
  rw [inBuffer_iff] at h
  rw [outBase]
  omega

/-- Settles O45: no family of commands writes an input register, and a command's output lies in OUT. -/
theorem commandsKeepTheirInputs : Obligations.CommandsKeepTheirInputs := by
  intro i s t h
  have hin : ∀ a, inBuffer s.cfg a = true → memRead t.mem a = memRead s.mem a := fun a ha =>
    (commandsStoreOnlyTheirOutput i s t h).1 a fun hout => Nat.not_lt.mpr hout.1 (lt_outBase_of_inBuffer ha)
  rcases exec_cases i s t h with ⟨_, -, -, rfl⟩ | ⟨_, -, -, rfl⟩ | ⟨-, rfl⟩ | ⟨-, -, rfl⟩ |
    ⟨-, _, rfl⟩ | ⟨-, _, _, -, -, rfl⟩ | ⟨-, _, _, _, _, -, -, -, -, -, rfl⟩ <;>
  exact ⟨rfl, rfl, rfl, rfl, rfl, rfl, rfl, rfl, rfl, rfl, hin, rfl, rfl, rfl, rfl⟩

/-- Settles O46: each family of commands writes its own registers. -/
theorem resultRegistersHaveTheirWriters : Obligations.ResultRegistersHaveTheirWriters := by
  intro i s t h
  rcases exec_cases i s t h with ⟨_, -, -, rfl⟩ | ⟨_, -, hi, rfl⟩ | ⟨-, rfl⟩ | ⟨rfl, -, rfl⟩ |
    ⟨hi, _, rfl⟩ | ⟨hi, _, _, -, -, rfl⟩ | ⟨hi, _, _, _, _, -, -, -, -, -, rfl⟩
  case inl | inr.inr.inl => exact ⟨fun _ => rfl, fun _ => rfl, fun _ => rfl, fun _ => ⟨rfl, rfl, rfl⟩, id⟩
  case inr.inl => exact ⟨fun _ => rfl, fun _ => rfl, absurd hi, fun _ => ⟨rfl, rfl, rfl⟩, id⟩
  case inr.inr.inr.inl =>
    exact ⟨fun _ => rfl, fun _ => rfl, fun _ => rfl, absurd (by decide), fun _ => rfl⟩
  case inr.inr.inr.inr.inl => exact ⟨absurd hi, fun _ => rfl, fun _ => rfl, fun _ => ⟨rfl, rfl, rfl⟩, id⟩
  case inr.inr.inr.inr.inr.inl =>
    have huser : i ∈ keyUsers := by simp [keyUsers, hi]
    exact ⟨fun _ => rfl, absurd hi, fun _ => rfl, absurd huser, fun _ => rfl⟩
  case inr.inr.inr.inr.inr.inr =>
    have huser : i ∈ keyUsers := by simp [keyUsers, hi]
    have hword : i ∈ messageWords := by simp [messageWords, hi]
    exact ⟨fun _ => rfl, fun _ => rfl, absurd hword, absurd huser, fun _ => rfl⟩

end Sys2Proof.Machine

/-! CBC by blocks (R704, R705) and the round trips of the two modes (R718): a message is padded, cut into blocks and
chained; each of these is undone, and the host's copy of OUT into IN carries the string between the two commands. -/

namespace Sys2Proof.Machine

/-! ### Blocks and bytes -/

/-- Byte `j` of block `i` of a string (R704). -/
theorem blockByte_blocksOf {n i j : Nat} (q : List Byte) (hi : i < n) (hj : j < 16) :
    blockByte ((blocksOf n q).getD i 0) j = q.getD (16 * i + j) 0 := by
  induction n generalizing q i with
  | zero => omega
  | succ n ih =>
    cases i with
    | zero =>
      rw [blocksOf, List.getD_cons_zero, blockOfBytes, blockByte_blockOfFn _ _ hj]
      simp [List.getD_eq_getElem?_getD, hj]
    | succ i =>
      have hplace : 16 + (16 * i + j) = 16 * (i + 1) + j := by omega
      rw [blocksOf, List.getD_cons_succ, ih _ (by omega)]
      simp only [List.getD_eq_getElem?_getD, List.getElem?_drop, hplace]

/-- Joining blocks and cutting the string again gives the blocks. -/
@[simp] theorem blocksOf_bytesOf (bs : List Block) : blocksOf bs.length (bytesOf bs) = bs := by
  induction bs with
  | nil => rfl
  | cons b bs ih =>
    have hbytes : bytesOf (b :: bs) = blockBytes b ++ bytesOf bs := rfl
    have hlen := blockBytes_length b
    rw [List.length_cons, blocksOf, hbytes, List.take_left' hlen, List.drop_left' hlen, ih, blockOfBytes_blockBytes]

/-! ### CBC -/

/-- The chaining value of block `i`: the IV first, then the block before it (R704, R705). -/
theorem ite_getD_eq_cons_getD (iv : Block) (cs : List Block) (i : Nat) :
    (if i = 0 then iv else cs.getD (i - 1) 0) = (iv :: cs).getD i 0 := by
  cases i <;> rfl

/-- Each ciphertext block encrypts the plaintext block XOR its chaining value (R704). -/
theorem cbcEncrypt_getElem? (e : Block → Block) (iv : Block) (ps : List Block) (i : Nat) (h : i < ps.length) :
    (cbcEncrypt e iv ps)[i]? = some (e (ps[i] ^^^ (iv :: cbcEncrypt e iv ps).getD i 0)) := by
  induction ps generalizing iv i with
  | nil => exact absurd h (Nat.not_lt_zero i)
  | cons p ps ih =>
    cases i with
    | zero => rfl
    | succ i => exact ih _ i (Nat.lt_of_succ_lt_succ h)

/-- Each plaintext block is the decrypted ciphertext block XOR its chaining value (R705). -/
theorem cbcDecrypt_getElem? (d : Block → Block) (iv : Block) (cs : List Block) (i : Nat) (h : i < cs.length) :
    (cbcDecrypt d iv cs)[i]? = some (d cs[i] ^^^ (iv :: cs).getD i 0) := by
  induction cs generalizing iv i with
  | nil => exact absurd h (Nat.not_lt_zero i)
  | cons c cs ih =>
    cases i with
    | zero => rfl
    | succ i => exact ih c i (Nat.lt_of_succ_lt_succ h)

/-- Settles O34: the cut byte by byte, and the two block equations with the chaining value written out. -/
theorem cbcBlockEquations : Obligations.CbcBlockEquations := by
  refine ⟨fun n q hq => ⟨blocksOf_length n q, bytesOf_blocksOf n q hq, fun i j hi hj => blockByte_blocksOf q hi hj⟩,
    fun f iv qs => ⟨cbcEncrypt_length f iv qs, cbcDecrypt_length f iv qs, fun i h => ?_⟩⟩
  rw [ite_getD_eq_cons_getD, ite_getD_eq_cons_getD]
  exact ⟨cbcEncrypt_getElem? f iv qs i h, cbcDecrypt_getElem? f iv qs i h⟩

/-- CBC decryption undoes CBC encryption where the block functions are inverse (R718). -/
theorem cbcDecrypt_cbcEncrypt {e d : Block → Block} (hde : ∀ b, d (e b) = b) (iv : Block) (ps : List Block) :
    cbcDecrypt d iv (cbcEncrypt e iv ps) = ps := by
  induction ps generalizing iv with
  | nil => rfl
  | cons p ps ih => rw [cbcEncrypt, cbcDecrypt, ih, hde, BitVec.xor_assoc, BitVec.xor_self, BitVec.xor_zero]

/-- The decrypted bytes of an encrypted message are the padded message (R718). -/
theorem cbcPlaintext_cbcCiphertext (k : Schedule) (iv : Block) (m : List Byte) :
    cbcPlaintext k iv (bytesOf (cbcCiphertext k iv m)) = pad m := by
  have hcount : (bytesOf (cbcCiphertext k iv m)).length / 16 = (cbcCiphertext k iv m).length := by
    rw [bytesOf_length, Nat.mul_div_cancel_left _ (by decide)]
  rw [cbcPlaintext, hcount, blocksOf_bytesOf, cbcCiphertext, cbcDecrypt_cbcEncrypt (invCipher_cipher k)]
  exact bytesOf_blocksOf _ _ (pad_length m)

/-! ### CTR -/

/-- CTR undoes itself: the same keystream byte is added twice (R707, R718). -/
theorem ctrXcrypt_ctrXcrypt (e : Block → Block) (iv : Block) (xs : List Byte) :
    ctrXcrypt e iv (ctrXcrypt e iv xs) = xs := by
  refine List.ext_getElem? fun j => ?_
  by_cases hj : j < xs.length
  · have hj' : j < (ctrXcrypt e iv xs).length := by rwa [ctrXcrypt_length]
    have honce := (List.getElem?_eq_some_iff.mp (ctrXcrypt_getElem? e iv xs j hj)).2
    rw [ctrXcrypt_getElem? e iv _ j hj', honce, BitVec.xor_assoc, BitVec.xor_self, BitVec.xor_zero,
      List.getElem?_eq_getElem hj]
  · rw [List.getElem?_eq_none (by simpa using hj), List.getElem?_eq_none (by simpa using hj)]

/-! ### Round trips at the port -/

/-- `u` is ready to take back the message `out` that stands in OUT after `t`: the schedule and the IV are those of
`t`, and the host has copied OUT[0 .. OUTLEN-1] into IN (R718). -/
structure TakesBack (t u : State) : Prop where
  ksvalid : u.ksvalid = t.ksvalid
  rk : u.rk = t.rk
  ksNr : u.ksNr = t.ksNr
  iv : u.iv = t.iv
  ivlen : u.ivlen = t.ivlen
  cfg : u.cfg = t.cfg
  msglen : u.msglen = t.outlen
  copied : ∀ i, i < t.outlen.toNat → memRead u.mem (inBase + i) = memRead t.mem (outBase + i)

section
variable {s u : State} {k : Schedule} {out : List Byte} {chain : Block}

/-- The copied message is the output of the first command. -/
theorem TakesBack.holdsMessage (hu : TakesBack (finishMessage k out chain s) u)
    (hfits : out.length ≤ s.cfg.msgbufBytes) : HoldsMessage u out := by
  have hlen : (finishMessage k out chain s).outlen.toNat = out.length := toNat_outlen_of_fits hfits
  refine ⟨by rw [hu.msglen, hlen], fun i hi => ?_⟩
  rw [hu.copied i (hlen ▸ hi), finishMessage_mem, memRead_memWriteBytes_add _ _ _ hi]

/-- The second command passes the checks that all message commands share, with the first one's schedule. -/
theorem TakesBack.msgPrologue (hu : TakesBack (finishMessage k out chain s) u) (hiv : s.ivlen = 16)
    (hfits : out.length ≤ s.cfg.msgbufBytes) : msgPrologue u = .ok k := by
  refine (msgPrologue_eq_ok u k).mpr ⟨hasSchedule_of_cached hu.ksvalid hu.rk hu.ksNr, hu.ivlen.trans hiv, ?_⟩
  have ⟨hlen, _⟩ := hu.holdsMessage hfits
  rw [← hlen, hu.cfg]
  exact hfits

end

/-- What a successful message command leaves: its output in OUT and the output's length in OUTLEN (R708 to R711). -/
theorem finishMessage_leaves (k : Schedule) {m : List Byte} (chain : Block) {u : State}
    (hfits : m.length ≤ u.cfg.msgbufBytes) :
    (finishMessage k m chain u).errcode = 0 ∧ (finishMessage k m chain u).outlen.toNat = m.length ∧
      ∀ i, i < m.length → memRead (finishMessage k m chain u).mem (outBase + i) = m[i]? :=
  ⟨rfl, toNat_outlen_of_fits hfits, fun _ hi => memRead_memWriteBytes_add u.mem outBase m hi⟩

/-- Settles O48: MSGDEC.CBC reads back the ciphertext, which decrypts to the padded message. -/
theorem cbcMessageRoundTrip : Obligations.CbcMessageRoundTrip := by
  intro s u k m hk hiv hm hroom
  have henc : MessageSucceeds .msgencCbc s k m (bytesOf (cbcCiphertext k s.iv m))
      ((cbcCiphertext k s.iv m).getLastD s.iv) :=
    ⟨(msgPrologue_eq_ok s k).mpr ⟨hk, hiv, by have := hm.1; omega⟩,
      (lengthFault_eq_none_iff _ s).mpr ⟨fun _ => hm.1 ▸ hroom, nofun⟩, (readMessage_eq_some s m).mpr hm, rfl⟩
  have hlen : (bytesOf (cbcCiphertext k s.iv m)).length = 16 * (m.length / 16 + 1) := cbcCiphertext_length k s.iv m
  refine ⟨_, henc.exec_eq (by decide), rfl, fun hvalid hrk hnr hivEq hivlen hcfg hmsglen hcopied => ?_⟩
  have hu : TakesBack _ u := ⟨hvalid, hrk, hnr, hivEq, hivlen, hcfg, hmsglen, hcopied⟩
  have hread := hu.holdsMessage (hlen ▸ hroom)
  have hplain : unpad (cbcPlaintext k u.iv (bytesOf (cbcCiphertext k s.iv m))) = some m := by
    rw [hivEq, finishMessage_iv, cbcPlaintext_cbcCiphertext, unpad_pad]
  have hdec : MessageSucceeds .msgdecCbc u k (bytesOf (cbcCiphertext k s.iv m)) m
      (lastBlock u.iv (bytesOf (cbcCiphertext k s.iv m))) :=
    ⟨hu.msgPrologue hiv (hlen ▸ hroom),
      (lengthFault_eq_none_iff _ u).mpr ⟨nofun, fun _ => by have := hread.1; omega⟩,
      (readMessage_eq_some u _).mpr hread, Option.map_eq_some_iff.mpr ⟨m, hplain, rfl⟩⟩
  have hcfg' : u.cfg = s.cfg := hcfg
  exact ⟨_, hdec.exec_eq (by decide), finishMessage_leaves k _ (by rw [hcfg']; omega)⟩

/-- Settles O49: MSGDEC.CTR adds the keystream that MSGENC.CTR added. -/
theorem ctrMessageRoundTrip : Obligations.CtrMessageRoundTrip := by
  intro s u k m hk hiv hm hfits
  have henc := messageSucceeds_ctr (.inl rfl) ((msgPrologue_eq_ok s k).mpr ⟨hk, hiv, hm.1 ▸ hfits⟩) hm
  have hout : (ctrXcrypt (cipher k) s.iv m).length ≤ s.cfg.msgbufBytes := by rwa [ctrXcrypt_length]
  refine ⟨_, henc.exec_eq (by decide), rfl, fun hvalid hrk hnr hivEq hivlen hcfg hmsglen hcopied => ?_⟩
  have hu : TakesBack _ u := ⟨hvalid, hrk, hnr, hivEq, hivlen, hcfg, hmsglen, hcopied⟩
  have hdec := messageSucceeds_ctr (.inr rfl) (hu.msgPrologue hiv hout) (hu.holdsMessage hout)
  rw [hivEq, finishMessage_iv, ctrXcrypt_ctrXcrypt] at hdec
  have hcfg' : u.cfg = s.cfg := hcfg
  exact ⟨_, hdec.exec_eq (by decide), finishMessage_leaves k _ (hcfg' ▸ hfits)⟩

end Sys2Proof.Machine

/-! The host port's registers and buffers (20_memory.md): reads leave the engine as it is, each register reads what was
written to it, and the words of KEY, IV, BLKIN and IN are big-endian (R201, R207). -/

namespace Sys2Proof.Machine

/-! ### Reads -/

/-- Settles O52: a read only answers, and draws free values. -/
theorem readsChangeNoEngineState : Obligations.ReadsChangeNoEngineState := by
  intro a s
  by_cases ha : a.toNat % 4 = 0
  · exact ⟨⟨false, some (readData s a.toNat)⟩, if drawsFree s a.toNat then s.freeCount + 1 else s.freeCount,
      by simp [hostAccess, hostRead, misaligned_eq, ha], by simp [ha]⟩
  · exact ⟨⟨true, some 0⟩, s.freeCount, hostRead_misaligned a s ha, by simp [ha]⟩

/-- A word of IN or OUT is a target that reads its four bytes (R204). -/
theorem readTarget_buffer {s : State} {a : Nat} (ha : a % 4 = 0)
    (hbuf : inBuffer s.cfg a = true ∨ outBuffer s.cfg a = true) : readTarget s a = readBufWord s a := by
  rcases hbuf with h | h
  · rw [readTarget, targetOf_eq s.cfg a ha .inBuf ((inBuffer_iff _ _).mp h)]
  · rw [readTarget, targetOf_eq s.cfg a ha .outBuf ((outBuffer_iff _ _).mp h)]

/-- Byte `i` of a buffer word is the buffer's byte at that address (R201). -/
theorem wordByte_readBufWord (s : State) (a : Nat) {i : Nat} (hi : i < 4) :
    wordByte (readBufWord s a) i = readBufByte s (a + i) := by
  rw [readBufWord, wordByte_wordOfBytes _ _ _ _ i hi]
  interval_cases i <;> rfl

/-- A written byte reads as written (R209). -/
theorem readBufByte_of_written {s : State} {a : Nat} {b : Byte} (h : memRead s.mem a = some b) :
    readBufByte s a = b := by
  rw [readBufByte, h, Option.getD_some]

/-- A read of a word with no unwritten byte draws no free value (R209). -/
theorem drawsFree_of_written {s : State} {a : Nat} (h : ∀ i, i < 4 → memRead s.mem (a + i) ≠ none) :
    drawsFree s a = false := by
  have hread : memReadBytes s.mem a 4 ≠ none := fun hnone => by
    obtain ⟨i, hi, hunwritten⟩ := memReadBytes_eq_none 4 s.mem a hnone
    exact h i hi hunwritten
  rw [drawsFree, Option.isNone_eq_false_iff.mpr (Option.isSome_iff_ne_none.mpr hread), Bool.and_false]

theorem hostRead_freeCount {a : Addr} {s : State} (ha : a.toNat % 4 = 0) (h : drawsFree s a.toNat = false) :
    (hostRead a s).freeCount = s.freeCount := by
  simp [hostRead, misaligned_eq, ha, h]

/-- Settles O57: the word of the buffer, its bytes one by one, and the draw of free values. -/
theorem bufferReadsShowWrittenBytes : Obligations.BufferReadsShowWrittenBytes := by
  intro a s hb ha hbuf
  refine ⟨readBufWord s a.toNat, ?_, fun i b hi hwritten => ?_, fun hwritten => ?_⟩
  · rw [← readTarget_buffer ha hbuf]
    exact hostReads_idle a s ha hb
  · rw [wordByte_readBufWord s _ hi, readBufByte_of_written hwritten]
  · exact hostRead_freeCount ha (drawsFree_of_written hwritten)

/-! ### STATUS -/

/-- STATUS reads its word whether or not the engine is busy (R212). -/
theorem hostReads_status (s : State) : HostReads s 0x008 (statusWord s) := by
  have hstatus : targetOf s.cfg (0x008 : Addr).toNat = .status := targetOf_eq _ _ rfl .status rfl
  rw [HostReads, hostAccess, hostRead_resp _ _ rfl, readData, readTarget, hstatus]
  simp

/-- Settles O58: the word of STATUS is its fields side by side. -/
theorem statusWordFields : Obligations.StatusWordFields := by
  intro s
  refine ⟨hostReads_status s, ?busy, ?done, ?err, ?ksvalid, ?res4, ?errcode, ?res12, ?nr, ?res20,
    fun hb => hostReads_of_standsAt _ s _ .cmd rfl hb rfl fun e => by rw [readTarget, e]⟩
  case busy | done | err | ksvalid => simp only [statusWord, BitVec.getLsbD_append]; simp
  all_goals
    unfold statusWord
    simp (disch := decide) only [extract_append_high, extract_append_low]
    simp [statusNr]

/-! ### Narrow registers -/

/-- An aligned write of the idle engine does what the target that stands there does, and is answered (R103, R200). -/
theorem hostWrite_of_standsAt (a : Addr) (v : Word) (s : State) {s' : State} (t : Target) (ha : a.toNat % 4 = 0)
    (hb : s.busy = false) (hat : t.standsAt s.cfg a.toNat)
    (hw : targetOf s.cfg a.toNat = t → writeTarget a.toNat v s = s') :
    hostWrite a v s = { s' with resp := some { busError := false, rdata := none } } := by
  rw [hostWrite_idle a v s ha hb, hw (targetOf_eq _ _ ha t hat)]

/-- The narrow registers read their fields, zero-extended (R113 to R119). -/
theorem hostReads_narrow (s : State) (hb : s.busy = false) :
    HostReads s 0x00C (s.keylen.setWidth 32) ∧ HostReads s 0x010 (s.ivlen.setWidth 32) ∧
    HostReads s 0x014 (s.blklen.setWidth 32) ∧ HostReads s 0x018 (s.msglen.setWidth 32) ∧
    HostReads s 0x020 (s.gfa.setWidth 32) ∧ HostReads s 0x024 (s.gfb.setWidth 32) :=
  ⟨hostReads_of_standsAt _ s _ .keylen rfl hb rfl fun e => by rw [readTarget, e],
    hostReads_of_standsAt _ s _ .ivlen rfl hb rfl fun e => by rw [readTarget, e],
    hostReads_of_standsAt _ s _ .blklen rfl hb rfl fun e => by rw [readTarget, e],
    hostReads_of_standsAt _ s _ .msglen rfl hb rfl fun e => by rw [readTarget, e],
    hostReads_of_standsAt _ s _ .gfa rfl hb rfl fun e => by rw [readTarget, e],
    hostReads_of_standsAt _ s _ .gfb rfl hb rfl fun e => by rw [readTarget, e]⟩

/-- A write of a narrow register stores its field's bits; KEYLEN also clears KSVALID (R132, R133). -/
theorem hostWrite_narrow (v : Word) (s : State) (hb : s.busy = false) :
    (∃ r, hostWrite 0x00C v s = { s with keylen := v.extractLsb' 0 6, ksvalid := false, resp := r }) ∧
    (∃ r, hostWrite 0x010 v s = { s with ivlen := v.extractLsb' 0 5, resp := r }) ∧
    (∃ r, hostWrite 0x014 v s = { s with blklen := v.extractLsb' 0 5, resp := r }) ∧
    (∃ r, hostWrite 0x018 v s = { s with msglen := v.extractLsb' 0 17, resp := r }) ∧
    (∃ r, hostWrite 0x020 v s = { s with gfa := v.extractLsb' 0 8, resp := r }) ∧
    (∃ r, hostWrite 0x024 v s = { s with gfb := v.extractLsb' 0 8, resp := r }) :=
  ⟨⟨_, hostWrite_of_standsAt 0x00C v s .keylen rfl hb rfl fun e => by rw [writeTarget, e]⟩,
    ⟨_, hostWrite_of_standsAt 0x010 v s .ivlen rfl hb rfl fun e => by rw [writeTarget, e]⟩,
    ⟨_, hostWrite_of_standsAt 0x014 v s .blklen rfl hb rfl fun e => by rw [writeTarget, e]⟩,
    ⟨_, hostWrite_of_standsAt 0x018 v s .msglen rfl hb rfl fun e => by rw [writeTarget, e]⟩,
    ⟨_, hostWrite_of_standsAt 0x020 v s .gfa rfl hb rfl fun e => by rw [writeTarget, e]⟩,
    ⟨_, hostWrite_of_standsAt 0x024 v s .gfb rfl hb rfl fun e => by rw [writeTarget, e]⟩⟩

/-- The low `n` bits of a word, zero-extended, are the word under the mask of `n` ones (R133). -/
theorem setWidth_extractLsb'_eq_and (v : Word) {n : Nat} (hn : n ≤ 32) :
    (v.extractLsb' 0 n).setWidth 32 = v &&& BitVec.ofNat 32 (2 ^ n - 1) := by
  have hpow : 2 ^ n ≤ 2 ^ 32 := Nat.pow_le_pow_right (by decide) hn
  have hpos : 0 < 2 ^ n := Nat.two_pow_pos n
  have hmask : (2 ^ n - 1) % 2 ^ 32 = 2 ^ n - 1 := Nat.mod_eq_of_lt (by omega)
  have hlow : v.toNat % 2 ^ n < 2 ^ 32 := (Nat.mod_lt _ hpos).trans_le hpow
  apply BitVec.eq_of_toNat_eq
  rw [BitVec.toNat_setWidth, BitVec.extractLsb'_toNat, Nat.shiftRight_zero, BitVec.toNat_and, BitVec.toNat_ofNat,
    hmask, Nat.and_two_pow_sub_one_eq_mod, Nat.mod_eq_of_lt hlow]

/-- A register whose field was written reads as the written word under the field's mask (R133, R207). -/
theorem hostReads_masked {a : Addr} {v : Word} {s s' : State} {n : Nat} (hn : n ≤ 32) (hw : hostWrite a v s = s')
    (hread : HostReads s' a ((v.extractLsb' 0 n).setWidth 32)) :
    HostReads (hostAccess (.write a v) s) a (v &&& BitVec.ofNat 32 (2 ^ n - 1)) := by
  rw [hostAccess, hw, ← setWidth_extractLsb'_eq_and v hn]
  exact hread

/-- Settles O53: the field that a write stored, read back, is the word under the field's mask. -/
theorem narrowRegistersKeepTheirFieldBits : Obligations.NarrowRegistersKeepTheirFieldBits := by
  refine ⟨hostReads_narrow, hostWrite_narrow, fun v mask a s hb hreg => ?readBack⟩
  case readBack =>
    obtain ⟨⟨_, hkeylen⟩, ⟨_, hivlen⟩, ⟨_, hblklen⟩, ⟨_, hmsglen⟩, ⟨_, hgfa⟩, ⟨_, hgfb⟩⟩ :=
      hostWrite_narrow v s hb
    simp only [List.mem_cons, Prod.mk.injEq, List.not_mem_nil, or_false] at hreg
    rcases hreg with ⟨rfl, rfl⟩ | ⟨rfl, rfl⟩ | ⟨rfl, rfl⟩ | ⟨rfl, rfl⟩ | ⟨rfl, rfl⟩ | ⟨rfl, rfl⟩
    · exact hostReads_masked (n := 6) (by decide) hkeylen
        (hostReads_of_standsAt _ _ _ .keylen rfl hb rfl fun e => by rw [readTarget, e])
    · exact hostReads_masked (n := 5) (by decide) hivlen
        (hostReads_of_standsAt _ _ _ .ivlen rfl hb rfl fun e => by rw [readTarget, e])
    · exact hostReads_masked (n := 5) (by decide) hblklen
        (hostReads_of_standsAt _ _ _ .blklen rfl hb rfl fun e => by rw [readTarget, e])
    · exact hostReads_masked (n := 17) (by decide) hmsglen
        (hostReads_of_standsAt _ _ _ .msglen rfl hb rfl fun e => by rw [readTarget, e])
    · exact hostReads_masked (n := 8) (by decide) hgfa
        (hostReads_of_standsAt _ _ _ .gfa rfl hb rfl fun e => by rw [readTarget, e])
    · exact hostReads_masked (n := 8) (by decide) hgfb
        (hostReads_of_standsAt _ _ _ .gfb rfl hb rfl fun e => by rw [readTarget, e])

/-! ### KEY, IV, BLKIN and IN -/

/-- The bytes of the word of KEY at an aligned offset are KEY's bytes from that offset on (R122, R201). -/
theorem wordByte_keyWord_div (key : KeyReg) {d i : Nat} (hd : d < 32) (h4 : d % 4 = 0) (hi : i < 4) :
    wordByte (keyWord key (d / 4)) i = keyByte key (d + i) := by
  rw [wordByte_keyWord key _ i (by omega) hi, Nat.mul_div_cancel' (Nat.dvd_of_mod_eq_zero h4)]

/-- Replacing the word of KEY at an aligned address, KEY standing from `base` on, replaces the four bytes there
(R122, R201). -/
theorem keyByte_setKeyWord_at (key : KeyReg) (v : Word) {base n i : Nat} (hbase : base ≤ n) (h4 : (n - base) % 4 = 0)
    (hi : i < 32) : keyByte (setKeyWord key ((n - base) / 4) v) i =
      if n ≤ base + i ∧ base + i < n + 4 then wordByte v (base + i - n) else keyByte key i := by
  have hplace : i / 4 = (n - base) / 4 ↔ n ≤ base + i ∧ base + i < n + 4 := by omega
  simp only [keyByte_setKeyWord key _ i v hi, hplace]
  refine ite_congr rfl (fun h => ?_) fun _ => rfl
  congr 1
  omega

/-- Replacing the word of a block at an aligned address, the block standing from `base` on, replaces the four bytes
there (R123, R201). -/
theorem blockByte_setBlockWord_at (b : Block) (v : Word) {base n i : Nat} (hbase : base ≤ n)
    (h4 : (n - base) % 4 = 0) (hi : i < 16) : blockByte (setBlockWord b ((n - base) / 4) v) i =
      if n ≤ base + i ∧ base + i < n + 4 then wordByte v (base + i - n) else blockByte b i := by
  have hplace : i / 4 = (n - base) / 4 ↔ n ≤ base + i ∧ base + i < n + 4 := by omega
  simp only [blockByte_setBlockWord b _ i v hi, hplace]
  refine ite_congr rfl (fun h => ?_) fun _ => rfl
  congr 1
  omega

/-- A word written to IN stores its four bytes, big-endian (R201, R208). -/
theorem memRead_writeBufWord (m : Memory) (a : Nat) (v : Word) (b : Nat) :
    memRead (writeBufWord m a v) b = if a ≤ b ∧ b < a + 4 then some (wordByte v (b - a)) else memRead m b := by
  rw [writeBufWord, memRead_memWriteBytes]
  split
  next h =>
    obtain ⟨i, rfl⟩ := Nat.exists_eq_add_of_le h.1
    have hi : i < 4 := Nat.lt_of_add_lt_add_left h.2
    rw [if_pos ⟨h.1, by omega⟩, Nat.add_sub_cancel_left]
    interval_cases i <;> rfl
  next h => exact (if_neg h).symm

/-- A buffer word that was written reads back (R207). -/
theorem readBufWord_writeBufWord {s : State} {m : Memory} {a : Nat} {v : Word} (h : s.mem = writeBufWord m a v) :
    readBufWord s a = v := by
  refine word_ext _ _ fun i hi => ?_
  rw [wordByte_readBufWord s a hi]
  apply readBufByte_of_written
  rw [h, memRead_writeBufWord, if_pos (by omega), Nat.add_sub_cancel_left]

section
variable {a : Addr} {s : State} (v : Word) (ha : a.toNat % 4 = 0) (hb : s.busy = false)
include ha hb

theorem hostReads_key (h : 0x040 ≤ a.toNat ∧ a.toNat < 0x060) :
    HostReads s a (keyWord s.key ((a.toNat - 0x040) / 4)) :=
  hostReads_of_standsAt a s _ (.key _) ha hb ⟨h.1, h.2, rfl⟩ fun e => by rw [readTarget, e]

theorem hostReads_iv (h : 0x060 ≤ a.toNat ∧ a.toNat < 0x070) :
    HostReads s a (blockWord s.iv ((a.toNat - 0x060) / 4)) :=
  hostReads_of_standsAt a s _ (.iv _) ha hb ⟨h.1, h.2, rfl⟩ fun e => by rw [readTarget, e]

theorem hostReads_blkin (h : 0x080 ≤ a.toNat ∧ a.toNat < 0x090) :
    HostReads s a (blockWord s.blkin ((a.toNat - 0x080) / 4)) :=
  hostReads_of_standsAt a s _ (.blkin _) ha hb ⟨h.1, h.2, rfl⟩ fun e => by rw [readTarget, e]

theorem hostWrite_key (h : 0x040 ≤ a.toNat ∧ a.toNat < 0x060) : hostWrite a v s =
    { s with key := setKeyWord s.key ((a.toNat - 0x040) / 4) v, ksvalid := false, resp := some ⟨false, none⟩ } :=
  hostWrite_of_standsAt a v s (.key _) ha hb ⟨h.1, h.2, rfl⟩ fun e => by rw [writeTarget, e]

theorem hostWrite_iv (h : 0x060 ≤ a.toNat ∧ a.toNat < 0x070) : hostWrite a v s =
    { s with iv := setBlockWord s.iv ((a.toNat - 0x060) / 4) v, resp := some ⟨false, none⟩ } :=
  hostWrite_of_standsAt a v s (.iv _) ha hb ⟨h.1, h.2, rfl⟩ fun e => by rw [writeTarget, e]

theorem hostWrite_blkin (h : 0x080 ≤ a.toNat ∧ a.toNat < 0x090) : hostWrite a v s =
    { s with blkin := setBlockWord s.blkin ((a.toNat - 0x080) / 4) v, resp := some ⟨false, none⟩ } :=
  hostWrite_of_standsAt a v s (.blkin _) ha hb ⟨h.1, h.2, rfl⟩ fun e => by rw [writeTarget, e]

theorem hostWrite_in (h : inBuffer s.cfg a.toNat = true) : hostWrite a v s =
    { s with mem := writeBufWord s.mem a.toNat v, resp := some ⟨false, none⟩ } :=
  hostWrite_of_standsAt a v s .inBuf ha hb ((inBuffer_iff _ _).mp h) fun e => by rw [writeTarget, e]

/-- What is written to KEY, IV, BLKIN or IN reads back (R207). -/
theorem hostReads_hostWrite (h : (0x040 ≤ a.toNat ∧ a.toNat < 0x070) ∨ (0x080 ≤ a.toNat ∧ a.toNat < 0x090) ∨
    inBuffer s.cfg a.toNat = true) : HostReads (hostWrite a v s) a v := by
  rcases h with ⟨hlo, hhi⟩ | hblkin | hin
  · by_cases hkey : a.toNat < 0x060
    · rw [hostWrite_key v ha hb ⟨hlo, hkey⟩]
      refine hostReads_of_standsAt a _ v (.key _) ha hb ⟨hlo, hkey, rfl⟩ fun e => ?_
      rw [readTarget, e]
      exact (keyWord_setKeyWord _ _ _ v (by omega)).trans (if_pos rfl)
    · have hiv : 0x060 ≤ a.toNat := Nat.le_of_not_lt hkey
      rw [hostWrite_iv v ha hb ⟨hiv, hhi⟩]
      refine hostReads_of_standsAt a _ v (.iv _) ha hb ⟨hiv, hhi, rfl⟩ fun e => ?_
      rw [readTarget, e]
      exact (blockWord_setBlockWord _ _ _ v (by omega)).trans (if_pos rfl)
  · rw [hostWrite_blkin v ha hb hblkin]
    refine hostReads_of_standsAt a _ v (.blkin _) ha hb ⟨hblkin.1, hblkin.2, rfl⟩ fun e => ?_
    rw [readTarget, e]
    exact (blockWord_setBlockWord _ _ _ v (by omega)).trans (if_pos rfl)
  · rw [hostWrite_in v ha hb hin]
    refine hostReads_of_standsAt a _ v .inBuf ha hb ((inBuffer_iff _ _).mp hin) fun e => ?_
    rw [readTarget, e]
    exact readBufWord_writeBufWord rfl

end

/-- Settles O54: each range is where one register or buffer stands, whose word at the address is read and replaced. -/
theorem dataWordsReadBackBigEndian : Obligations.DataWordsReadBackBigEndian := by
  intro a v s hb ha n
  refine ⟨fun h => ⟨⟨_, hostReads_key ha hb h, fun i hi => ?keyRead⟩, _, _, hostWrite_key v ha hb h,
      fun i hi => ?keyWrite⟩,
    fun h => ⟨⟨_, hostReads_iv ha hb h, fun i hi => ?ivRead⟩, _, _, hostWrite_iv v ha hb h,
      fun i hi => ?ivWrite⟩,
    fun h => ⟨⟨_, hostReads_blkin ha hb h, fun i hi => ?blkinRead⟩, _, _, hostWrite_blkin v ha hb h,
      fun i hi => ?blkinWrite⟩,
    fun h => ⟨_, _, hostWrite_in v ha hb h, memRead_writeBufWord s.mem n v⟩, hostReads_hostWrite v ha hb⟩
  case keyRead => exact wordByte_keyWord_div _ (by omega) (by omega) hi
  case ivRead => exact wordByte_blockWord_div _ _ i (by omega) (by omega) hi
  case blkinRead => exact wordByte_blockWord_div _ _ i (by omega) (by omega) hi
  case keyWrite => exact keyByte_setKeyWord_at _ v h.1 (by omega) hi
  case ivWrite => exact blockByte_setBlockWord_at _ v h.1 (by omega) hi
  case blkinWrite => exact blockByte_setBlockWord_at _ v h.1 (by omega) hi

/-! ### Reset -/

/-- Settles O59: the records of the two resets, and the empty memory. -/
theorem resetAndPowerOn : Obligations.ResetAndPowerOn :=
  fun _ => ⟨rfl, rfl, memRead_nil⟩

/-- After a reset no schedule is cached and KEYLEN is 0 (R900, R903). -/
theorem noSchedule_assertReset (s : State) : NoSchedule (assertReset s) := by
  refine ⟨assertReset_ksvalid s, ?_, ?_, ?_⟩ <;> rw [assertReset_keylen] <;> decide

/-- Where the key check fails, every command that needs a key fails with InvalidKeyLength (R508). -/
theorem exec_keyUser_of_noSchedule {i : Instr} {s : State} (hi : i ∈ keyUsers) (hs : NoSchedule s) :
    ∃ t, exec i s = .next t ∧ t.errcode = 1 := by
  simp only [keyUsers, List.mem_append] at hi
  rcases hi with (hkeyexp | hblock) | hmsg
  · obtain rfl := List.mem_singleton.mp hkeyexp
    have hillegal : ¬ keylenLegal s = true := by
      rw [keylenLegal_iff]
      obtain ⟨-, h16, h24, h32⟩ := hs
      rintro (h | h | h) <;> contradiction
    exact ⟨_, (exec_keyexp s).trans (if_neg hillegal), rfl⟩
  · have hi : i = .encb ∨ i = .decb := by simpa [blockCommands] using hblock
    exact ⟨_, exec_block_of_error hi (blockPrologue_of_noSchedule hs), rfl⟩
  · exact ⟨_, (MessageFails.prologue (msgPrologue_of_noSchedule hs)).exec_eq hmsg, rfl⟩

/-- Settles O60: the reads of three targets, the failed key check, and the product of 0 and 0. -/
theorem afterResetReadsAndFailures : Obligations.AfterResetReadsAndFailures := by
  intro s
  have hstatus : statusWord (assertReset s) = 0 := by simp [statusWord, statusNr]
  refine ⟨hstatus ▸ hostReads_status (assertReset s), ?id, ?bufsize,
    fun i hi => exec_keyUser_of_noSchedule hi (noSchedule_assertReset s), _, exec_gfmul _, ?product, rfl⟩
  case id => exact hostReads_of_standsAt _ _ _ .id rfl rfl rfl fun e => by rw [readTarget, e]; rfl
  case bufsize => exact hostReads_of_standsAt _ _ _ .bufsize rfl rfl rfl fun e => by rw [readTarget, e]; rfl
  case product => rw [finishField_gfp, assertReset_gfa, zero_gmul]

end Sys2Proof.Machine
